-- ==== Sys2Proof/Word.lean ====
section
/-! DEFINITION. The values of the block: bytes, 16-bit words and 20-bit command words (00_scope.md section 5.1). -/

namespace Sys2Proof

/-- An 8-bit unsigned value (00_scope.md section 5.1). -/
abbrev Byte := BitVec 8

/-- A 16-bit unsigned value (00_scope.md section 5.1). -/
abbrev Word16 := BitVec 16

/-- A 20-bit command word (30_encoding.md R53). -/
abbrev Cmd := BitVec 20

end Sys2Proof
end

