-- ==== Sys2Proof/Config.lean ====
section
/-! DEFINITION. The names the spec gives to the sequencing states, the parameters it leaves OPEN, and the one
register it gives no reset value. The OPEN parameters are constants without a body: no proof sees their value. -/

namespace Sys2Proof

/-- The deframer's state (10_state.md R15). -/
inductive RxState where
  | idle
  | receiving
  | escaped
  deriving DecidableEq, Repr

/-- The framer's state (10_state.md R20). -/
inductive TxState where
  | txIdle
  | txOpen
  deriving DecidableEq, Repr

/-- What is fixed for the life of one copy of the block (00_scope.md R4, 70_reset_and_hazards.md R172 item 1). -/
structure Params where
  /-- `INST_ID`, stamped on every event. -/
  instId : Nat
  /-- `CAP`, the capacity of the assembly buffer in unstuffed bytes. -/
  cap : Nat
  /-- `PSTART_FLAG`: whether a START in `Receiving` emits a premature-start event. -/
  pstartFlag : Bool
  deriving DecidableEq, Repr

/-- One less than `N_INST`: OPEN (00_scope.md R4). DESIGN CHOICE, safe: log entry 4. -/
opaque Config.nInstPred : Nat

/-- One less than the `CAP` of each copy: OPEN, at least 1 (00_scope.md R4, 92_eei_decisions.md D4).
DESIGN CHOICE, safe: log entry 4. -/
opaque Config.capPred : Nat → Nat

/-- The `PSTART_FLAG` of each copy: OPEN (00_scope.md R4, 92_eei_decisions.md D5). DESIGN CHOICE, safe: log entry 4. -/
opaque Config.pstartFlag : Nat → Bool

/-- What `crc` holds after reset: the spec gives it no value (10_state.md R23, 93 X1), and no operation reads it
before the first CRC.INIT. DESIGN CHOICE, unsafe: log entry 5. -/
opaque Config.crcAtReset : Nat → Word16

/-- `N_INST` (00_scope.md R4). -/
def Config.nInst : Nat := Config.nInstPred + 1

/-- The parameters of copy `k` (00_scope.md R4). -/
def Config.params (k : Nat) : Params :=
  { instId := k, cap := Config.capPred k + 1, pstartFlag := Config.pstartFlag k }

end Sys2Proof
end

