-- ==== Sys2Proof/Syntax.lean ====
section
/-! DEFINITION. The operations of the block: one constructor for each of the 29 rows of spec/opcode_table.json. -/

namespace Sys2Proof

/-- One row of the opcode table with its operands. -/
inductive Instr where
  /-- CRC.INIT s (40_crc.md R70) -/
  | crcInit (s : Word16)
  /-- CRC.BYTE d (40_crc.md R71) -/
  | crcByte (d : Byte)
  /-- CRC.READ (40_crc.md R72) -/
  | crcRead
  /-- RX.RESET (41_deframer.md R100) -/
  | rxReset
  /-- RX.BYTE b (41_deframer.md R90) -/
  | rxByte (b : Byte)
  /-- TX.START (42_framer.md R120) -/
  | txStart
  /-- TX.BYTE d (42_framer.md R121) -/
  | txByte (d : Byte)
  /-- TX.END (42_framer.md R122) -/
  | txEnd
  /-- A reserved command word (30_encoding.md R54) -/
  | reserved (w : Cmd)
  /-- RX.BYTE in `Idle`, class START (41_deframer.md R91) -/
  | rxIdleStart
  /-- RX.BYTE in `Idle`, any other byte (41_deframer.md R92) -/
  | rxIdleOther (b : Byte)
  /-- RX.BYTE in `Receiving`, class START (41_deframer.md R93) -/
  | rxReceivingStart
  /-- RX.BYTE in `Receiving`, class END (41_deframer.md R94) -/
  | rxReceivingEnd
  /-- RX.BYTE in `Receiving`, class ESCAPE (41_deframer.md R95) -/
  | rxReceivingEscape
  /-- RX.BYTE in `Receiving`, class DATA (41_deframer.md R96) -/
  | rxReceivingData (b : Byte)
  /-- RX.BYTE in `Escaped`, substitution code of START (41_deframer.md R97) -/
  | rxEscapedSubStart
  /-- RX.BYTE in `Escaped`, substitution code of END (41_deframer.md R97) -/
  | rxEscapedSubEnd
  /-- RX.BYTE in `Escaped`, substitution code of ESCAPE (41_deframer.md R97) -/
  | rxEscapedSubEscape
  /-- RX.BYTE in `Escaped`, any other byte (41_deframer.md R98) -/
  | rxEscapedInvalid (b : Byte)
  /-- TX.BYTE of a byte equal to START (42_framer.md R121) -/
  | txByteStartValued
  /-- TX.BYTE of a byte equal to END (42_framer.md R121) -/
  | txByteEndValued
  /-- TX.BYTE of a byte equal to ESCAPE (42_framer.md R121) -/
  | txByteEscapeValued
  /-- TX.BYTE of any other byte (42_framer.md R121) -/
  | txBytePlain (d : Byte)
  /-- CRC.COMPUTE s, D (40_crc.md R79) -/
  | crcCompute (s : Word16) (D : List Byte)
  /-- TX.FRAME D (42_framer.md R125) -/
  | txFrame (D : List Byte)
  /-- FCS.APPEND P (43_fcs.md R136) -/
  | fcsAppend (P : List Byte)
  /-- FCS.CHECK B (43_fcs.md R137) -/
  | fcsCheck (B : List Byte)
  /-- TX.PACKET P (43_fcs.md R139) -/
  | txPacket (P : List Byte)
  /-- RX.STREAM W (41_deframer.md R106) -/
  | rxStream (W : List Byte)
  deriving DecidableEq, Repr

/-- The composites: the rows that have no command word of their own (30_encoding.md R60). -/
def Instr.isComposite : Instr → Bool
  | .crcCompute _ _ | .txFrame _ | .fcsAppend _ | .fcsCheck _ | .txPacket _ | .rxStream _ => true
  | .crcInit _ | .crcByte _ | .crcRead | .rxReset | .rxByte _ | .txStart | .txByte _ | .txEnd | .reserved _
  | .rxIdleStart | .rxIdleOther _ | .rxReceivingStart | .rxReceivingEnd | .rxReceivingEscape | .rxReceivingData _
  | .rxEscapedSubStart | .rxEscapedSubEnd | .rxEscapedSubEscape | .rxEscapedInvalid _
  | .txByteStartValued | .txByteEndValued | .txByteEscapeValued | .txBytePlain _ => false

end Sys2Proof
end

