-- ==== Sys2Proof/Decode.lean ====
section
/-! DEFINITION. The decoders and the encoder: 20-bit command words (30_encoding.md R53, R54), the sub-decode of a wire
byte by the deframer's state (R55, R56) and the sub-decode of a byte to be sent (R57). All are total: a reserved word
decodes to the row of reserved words, and every byte has its class. -/

namespace Sys2Proof

/-- `START` (00_scope.md R4). -/
def startByte : Byte := 0xA0#8
/-- `END` (00_scope.md R4). -/
def endByte : Byte := 0x05#8
/-- `ESCAPE` (00_scope.md R4). -/
def escapeByte : Byte := 0xF0#8
/-- `SUB_START` (00_scope.md R4). -/
def subStart : Byte := 0x01#8
/-- `SUB_END` (00_scope.md R4). -/
def subEnd : Byte := 0x02#8
/-- `SUB_ESCAPE` (00_scope.md R4). -/
def subEscape : Byte := 0xF0#8

/-- One of the three reserved wire values START, END, ESCAPE (30_encoding.md R55). -/
def isReservedByte (b : Byte) : Bool := b == startByte || b == endByte || b == escapeByte

/-- One of the three substitution codes (30_encoding.md R56). -/
def isSubCode (b : Byte) : Bool := b == subStart || b == subEnd || b == subEscape

/-- The row of RX.BYTE a wire byte selects in each state (30_encoding.md R55, R56; 41_deframer.md R90). -/
def decodeWire (ctx : RxState) (b : Byte) : Instr :=
  match ctx with
  | .idle => if b = startByte then .rxIdleStart else .rxIdleOther b
  | .receiving =>
    if b = startByte then .rxReceivingStart
    else if b = endByte then .rxReceivingEnd
    else if b = escapeByte then .rxReceivingEscape
    else .rxReceivingData b
  | .escaped =>
    if b = subStart then .rxEscapedSubStart
    else if b = subEnd then .rxEscapedSubEnd
    else if b = subEscape then .rxEscapedSubEscape
    else .rxEscapedInvalid b

/-- The row of TX.BYTE a byte to be sent selects (30_encoding.md R57). -/
def decodeTxData (d : Byte) : Instr :=
  if d = startByte then .txByteStartValued
  else if d = endByte then .txByteEndValued
  else if d = escapeByte then .txByteEscapeValued
  else .txBytePlain d

/-- Field `op`, bits 19:16 (30_encoding.md R53). -/
def Cmd.op (w : Cmd) : BitVec 4 := w.extractLsb' 16 4
/-- Field `arg`, bits 15:0 (30_encoding.md R53). -/
def Cmd.arg (w : Cmd) : Word16 := w.extractLsb' 0 16
/-- `arg[15:8]`, which must be 0 where the operand is a byte (30_encoding.md R53). -/
def Cmd.argHigh (w : Cmd) : Byte := w.extractLsb' 8 8
/-- `arg[7:0]`, the operand where it is a byte (30_encoding.md R53). -/
def Cmd.argLow (w : Cmd) : Byte := w.extractLsb' 0 8

/-- The operation a command word stands for; a word that matches no row of 30_encoding.md R53 is reserved (R54). -/
def decodeWord (w : Cmd) : Instr :=
  if w.op = 0x1#4 then .crcInit w.arg
  else if w.op = 0x2#4 ∧ w.argHigh = 0#8 then .crcByte w.argLow
  else if w.op = 0x3#4 ∧ w.arg = 0#16 then .crcRead
  else if w.op = 0x4#4 ∧ w.arg = 0#16 then .rxReset
  else if w.op = 0x5#4 ∧ w.argHigh = 0#8 then .rxByte w.argLow
  else if w.op = 0x6#4 ∧ w.arg = 0#16 then .txStart
  else if w.op = 0x7#4 ∧ w.argHigh = 0#8 then .txByte w.argLow
  else if w.op = 0x8#4 ∧ w.arg = 0#16 then .txEnd
  else .reserved w

/-- The three coded forms of a row: a command word, a wire byte read in a deframer state, a byte to be sent
(formats CMD20, WIRE8 and TXDATA8 of the opcode table). -/
inductive Form where
  | command (w : Cmd)
  | wire (ctx : RxState) (b : Byte)
  | txData (d : Byte)
  deriving DecidableEq, Repr

/-- The row a coded form stands for. -/
def decode : Form → Instr
  | .command w => decodeWord w
  | .wire ctx b => decodeWire ctx b
  | .txData d => decodeTxData d

/-- A command word with its two fields (30_encoding.md R53). -/
def Cmd.make (op : BitVec 4) (arg : Word16) : Cmd := op ++ arg

/-- A byte operand in `arg[7:0]` with `arg[15:8]` zero (30_encoding.md R53). -/
def byteArg (d : Byte) : Word16 := 0#8 ++ d

/-- The coded form of a row; a composite has none (30_encoding.md R60). -/
def encode : Instr → Option Form
  | .crcInit s => some (.command (Cmd.make 0x1#4 s))
  | .crcByte d => some (.command (Cmd.make 0x2#4 (byteArg d)))
  | .crcRead => some (.command (Cmd.make 0x3#4 0#16))
  | .rxReset => some (.command (Cmd.make 0x4#4 0#16))
  | .rxByte b => some (.command (Cmd.make 0x5#4 (byteArg b)))
  | .txStart => some (.command (Cmd.make 0x6#4 0#16))
  | .txByte d => some (.command (Cmd.make 0x7#4 (byteArg d)))
  | .txEnd => some (.command (Cmd.make 0x8#4 0#16))
  | .reserved w => some (.command w)
  | .rxIdleStart => some (.wire .idle startByte)
  | .rxIdleOther b => some (.wire .idle b)
  | .rxReceivingStart => some (.wire .receiving startByte)
  | .rxReceivingEnd => some (.wire .receiving endByte)
  | .rxReceivingEscape => some (.wire .receiving escapeByte)
  | .rxReceivingData b => some (.wire .receiving b)
  | .rxEscapedSubStart => some (.wire .escaped subStart)
  | .rxEscapedSubEnd => some (.wire .escaped subEnd)
  | .rxEscapedSubEscape => some (.wire .escaped subEscape)
  | .rxEscapedInvalid b => some (.wire .escaped b)
  | .txByteStartValued => some (.txData startByte)
  | .txByteEndValued => some (.txData endByte)
  | .txByteEscapeValued => some (.txData escapeByte)
  | .txBytePlain d => some (.txData d)
  | .crcCompute _ _ => none
  | .txFrame _ => none
  | .fcsAppend _ => none
  | .fcsCheck _ => none
  | .txPacket _ => none
  | .rxStream _ => none

/-- The deframer state in which the table first names the byte's value, table order; a byte no row names is read in
`Idle`, whose default row is the table's first. DESIGN CHOICE, safe: log entry 2. -/
def tableContext (b : Byte) : RxState :=
  if b = startByte then .idle
  else if b = endByte ∨ b = escapeByte then .receiving
  else if b = subStart ∨ b = subEnd then .escaped
  else .idle

/-- The instruction of a numeral: 8 bits are a sub-decode row's wire byte, read in `tableContext`; any other width is
a command word, whose bits above 19 must be 0 (log entry 2). -/
def decodeTableWord (nbits w : Nat) : Option Instr :=
  if nbits = 8 then
    if w < 256 then some (decodeWire (tableContext (BitVec.ofNat 8 w)) (BitVec.ofNat 8 w)) else none
  else if w < 1048576 then some (decodeWord (BitVec.ofNat 20 w)) else none

end Sys2Proof
end

