-- ==== Sys2Proof/Machine/State.lean ====
section
/-! DEFINITION. The state of the machine: every element of 10_state.md R10 for each copy of the block, its parameters
(00_scope.md R4), the histories the environment keeps (R18, R19), and what the environment has still to present. -/

namespace Sys2Proof.Machine

/-- The source's ReceiveError (60_exceptions.md R150). -/
inductive ReceiveError where
  | none
  | prematureStart
  | bufferOverflow
  | badEscapeSequence
  | crcMismatch
  | invalidPacketTooShort
  deriving DecidableEq, Repr

/-- The kind of an event (10_state.md R18). -/
inductive EventKind where
  | frame
  | error
  deriving DecidableEq, Repr

/-- An event record of the deframer (10_state.md R18). -/
structure Event where
  src : Nat
  kind : EventKind
  err : ReceiveError
  len : Nat
  data : List Byte
  deriving DecidableEq, Repr

/-- What FCS.CHECK returns (43_fcs.md R137). -/
inductive Verdict where
  | ok (P : List Byte)
  | tooShort
  | crcMismatch
  deriving DecidableEq, Repr

/-- The value an operation with a result returns to its caller (30_encoding.md R52 and R60, column result). -/
inductive Result where
  /-- CRC.READ and CRC.COMPUTE: a word16. -/
  | word (c : Word16)
  /-- FCS.APPEND: a byte sequence. -/
  | bytes (l : List Byte)
  /-- FCS.CHECK: its verdict. -/
  | verdict (v : Verdict)
  /-- RX.STREAM: the events emitted, in order. -/
  | events (l : List Event)
  deriving DecidableEq, Repr

/-- The assembly buffer (20_memory.md R30): the bytes that have been stored, by index, strictly rising. -/
abbrev Memory := List Host.Cell

/-- One copy of the block: the spec's "instance" (10_state.md R10). -/
structure Block where
  /-- Fixed for life (70_reset_and_hazards.md R172 item 1). -/
  params : Params
  /-- The CRC accumulator (R11). -/
  crc : Word16
  /-- False from reset to the first CRC.INIT (R12). -/
  crcValid : Bool
  /-- R15. -/
  rxState : RxState
  /-- R16. -/
  rxLen : Nat
  /-- `rx_buf` (R17). -/
  rxBuf : Memory
  /-- R20. -/
  txState : TxState
  /-- The event stream so far, oldest first (R18). -/
  rxEvt : List Event
  /-- The wire bytes sent so far, oldest first (R19). -/
  txOut : List Byte
  /-- The values returned so far, oldest first: the model's own history (log entry 3). -/
  results : List Result
  deriving DecidableEq, Repr

/-- One thing the environment presents (00_scope.md section 5.3; log entry 1). -/
inductive Input where
  /-- A command word at a command port (30_encoding.md R52, R53). -/
  | word (port : Nat) (w : Cmd)
  /-- An operation presented by name at a command port: the form of a composite, which has no word (R52, R60). -/
  | op (port : Nat) (i : Instr)
  /-- The RESET event (70_reset_and_hazards.md R170). -/
  | reset
  deriving DecidableEq, Repr

/-- The machine: `N_INST` copies of the block, and the environment's side of their command ports. -/
structure State where
  /-- The copies; the place in the list is the command port (10_state.md R10, R25). -/
  insts : List Block
  /-- The port the operation being executed came in by: the model's own field (log entry 1). -/
  port : Nat
  /-- What the environment has still to present, next first: the model's own field (log entry 1). -/
  input : List Input
  deriving DecidableEq, Repr

/-- Why the machine stops with a fault. -/
inductive Fault where
  /-- The port is no instance's: raised for every operation presented at a port at or above `N_INST`, which
  00_scope.md R4 says does not exist. Safe: the model stops (log entry 10). -/
  | noSuchInstance
  /-- END met a byte below `rx_len` that nothing has stored: raised by `completeFrame` only in states no run reaches
  (Block.Inv rules them out; 10_state.md R22 item 2, R23). Safe: the model stops (log entry 6). -/
  | unwrittenByte
  deriving DecidableEq, Repr

/-- Why an operation has no meaning: the spec's `refuse(reason)` (00_scope.md section 5.2). -/
inductive Refusal where
  /-- An instruction the model has no meaning for yet: raised by no arm. Safe. -/
  | notModelled (mnemonic : String)
  /-- `refuse(reserved-command)`: every reserved word (30_encoding.md R54). Safe. -/
  | reservedCommand
  /-- `refuse(crc-unseeded)`: CRC.BYTE or CRC.READ with `crc_valid` false (40_crc.md R71, R72). Safe. -/
  | crcUnseeded
  /-- `refuse(tx-sequence)`: a framer operation out of order (42_framer.md R120 to R123). Safe. -/
  | txSequence
  /-- A sub-decode row presented by name where the spec does not select it: outside its context or with an operand
  its class excludes (30_encoding.md R55 to R57). Safe: RX.BYTE and TX.BYTE never raise it (log entry 8). -/
  | rowOutOfContext
  deriving DecidableEq, Repr

/-- The three outcomes, for a value of type `α`. -/
abbrev Out (α : Type) := Host.Outcome α Fault Refusal

/-- What the environment presents next: nothing, the RESET event, or an operation; with the state it is presented to. -/
inductive Presented where
  | nothing
  | reset (s : State)
  | operation (i : Instr) (s : State)
  deriving DecidableEq, Repr

/-- One copy after reset (10_state.md R23); `crc` has no value in the spec and a bodiless constant here. -/
def Block.reset (p : Params) : Block :=
  { params := p, crc := Config.crcAtReset p.instId, crcValid := false, rxState := .idle, rxLen := 0, rxBuf := [],
    txState := .txIdle, rxEvt := [], txOut := [], results := [] }

/-- `n` copies after reset, numbered from `k`. -/
def resetInstances : Nat → Nat → List Block
  | 0, _ => []
  | n + 1, k => Block.reset (Config.params k) :: resetInstances n (k + 1)

/-- The machine right after reset with nothing presented yet (10_state.md R23). -/
def State.reset : State :=
  { insts := resetInstances Config.nInst 0, port := 0, input := [] }

end Sys2Proof.Machine
end

