-- ==== Sys2Proof/Machine/Ops.lean ====
section
/-! DEFINITION. The named operations the meanings are made of: the assembly buffer, the emission of events and bytes,
the raising of a receive error, the choice of the addressed copy, RESET, and the taking of the next input. -/

namespace Sys2Proof.Machine

/-- `o`, and then `f` of what it answers; a fault or a refusal ends it (70_reset_and_hazards.md R182). -/
def andThen {α β : Type} (o : Out α) (f : α → Out β) : Out β :=
  match o with
  | .next a => f a
  | .fault r => .fault r
  | .refused r => .refused r

/-- `f` on each byte in order (the `OP D[0]; ...; OP D[n-1]` of 30_encoding.md R60). -/
def runEach (f : Byte → Block → Out Block) : List Byte → Block → Out Block
  | [], t => .next t
  | d :: D, t => andThen (f d t) (runEach f D)

/-! ### The assembly buffer (20_memory.md R30) -/

/-- What an index nothing has stored to reads as: no value (10_state.md R17, R23). DESIGN CHOICE, safe: log entry 6. -/
def Memory.unlisted : Option Byte := none

/-- `MemRead(a, 1)`. -/
def Memory.read : Memory → Nat → Option Byte
  | [], _ => Memory.unlisted
  | (b, v) :: rest, a => if a = b then some v else Memory.read rest a

/-- `MemWrite(a, 1, v)`, keeping the indices strictly rising. -/
def Memory.write : Memory → Nat → Byte → Memory
  | [], a, v => [(a, v)]
  | (b, u) :: rest, a, v =>
    if a < b then (a, v) :: (b, u) :: rest
    else if a = b then (a, v) :: rest
    else (b, u) :: Memory.write rest a v

/-- Every index of the list is above `k`, and they strictly rise. -/
def Memory.risingFrom : Nat → Memory → Bool
  | _, [] => true
  | k, (b, _) :: rest => decide (k ≤ b) && Memory.risingFrom (b + 1) rest

/-- The canonical form: indices strictly rising, so equal buffers are equal lists. No entry can equal what an unlisted
index reads as, since that is no value. -/
def Memory.wf (m : Memory) : Bool := Memory.risingFrom 0 m

/-- The copy of `rx_buf[0 .. n-1]`, in ascending order; none where a byte has no value (41_deframer.md R94, R102). -/
def Memory.copyFirst (m : Memory) : Nat → Option (List Byte)
  | 0 => some []
  | n + 1 =>
    match Memory.copyFirst m n, Memory.read m n with
    | some l, some v => some (l ++ [v])
    | _, _ => none

/-! ### The registers of a copy -/

/-- Load the accumulator with a seed and mark it valid (40_crc.md R70). -/
def Block.seedCrc (t : Block) (s : Word16) : Block := { t with crc := s, crcValid := true }

/-- `crc <- c`. -/
def Block.setCrc (t : Block) (c : Word16) : Block := { t with crc := c }

/-- `rx_state <- st`. -/
def Block.setRxState (t : Block) (st : RxState) : Block := { t with rxState := st }

/-- `rx_len <- n`. -/
def Block.setRxLen (t : Block) (n : Nat) : Block := { t with rxLen := n }

/-- `MemWrite(a, 1, v)` in this copy's buffer. -/
def Block.store (t : Block) (a : Nat) (v : Byte) : Block := { t with rxBuf := Memory.write t.rxBuf a v }

/-- `tx_state <- st`. -/
def Block.setTxState (t : Block) (st : TxState) : Block := { t with txState := st }

/-- `emit_rx(e)` (41_deframer.md R104). -/
def Block.emitRx (t : Block) (e : Event) : Block := { t with rxEvt := t.rxEvt ++ [e] }

/-- `emit_tx(b)` (10_state.md R19). -/
def Block.emitTx (t : Block) (b : Byte) : Block := { t with txOut := t.txOut ++ [b] }

/-- The operation returns `r` to its caller (log entry 3). -/
def Block.returns (t : Block) (r : Result) : Block := { t with results := t.results ++ [r] }

/-! ### Raising a receive error -/

/-- The ERROR event of a copy (41_deframer.md R104). -/
def Block.errorEvent (t : Block) (kind : ReceiveError) : Event :=
  { src := t.params.instId, kind := .error, err := kind, len := 0, data := [] }

/-- The FRAME event of a copy that has assembled `data` (41_deframer.md R94, R104). -/
def Block.frameEvent (t : Block) (data : List Byte) : Event :=
  { src := t.params.instId, kind := .frame, err := .none, len := t.rxLen, data := data }

/-- The state `raise RxError(kind)` leaves the deframer in (60_exceptions.md R153 item 3). -/
def stateAfterError (kind : ReceiveError) (st : RxState) : RxState :=
  match kind with
  | .bufferOverflow => .idle
  | .badEscapeSequence => .idle
  | .prematureStart => st
  | .none => st
  | .crcMismatch => st
  | .invalidPacketTooShort => st

/-- `raise RxError(kind)`: the ERROR event, `rx_len <- 0`, and the next state (60_exceptions.md R153). -/
def Block.raiseRxError (t : Block) (kind : ReceiveError) : Block :=
  ((t.emitRx (t.errorEvent kind)).setRxLen 0).setRxState (stateAfterError kind t.rxState)

/-! ### The addressed copy -/

/-- The machine with the copy at the current port replaced. -/
def State.withInst (s : State) (t : Block) : State := { s with insts := s.insts.set s.port t }

/-- The machine with other input to come. -/
def State.withInput (s : State) (l : List Input) : State := { s with input := l }

/-- The machine with the current port `p`. -/
def State.atPort (s : State) (p : Nat) : State := { s with port := p }

/-- Run `f` on the copy whose command port the operation came in by; all other copies are left alone
(10_state.md R25). A port no copy has faults: log entry 10. -/
def State.onPort (s : State) (f : Block → Out Block) : Out State :=
  match s.insts[s.port]? with
  | none => .fault .noSuchInstance
  | some t => andThen (f t) fun t' => .next (s.withInst t')

/-! ### RESET and the next input -/

/-- The RESET event: every copy to the state of 10_state.md R23, its parameters kept; nothing is emitted, and the
streams start afresh with the new run (70_reset_and_hazards.md R170; log entry 7). -/
def State.resetEvent (s : State) : State :=
  { s with insts := s.insts.map fun t => Block.reset t.params, port := 0 }

/-- Take what the environment presents next (00_scope.md section 5.3; log entry 1). -/
def present (s : State) : Presented :=
  match s.input with
  | [] => .nothing
  | .word p w :: rest => .operation (decodeWord w) ((s.withInput rest).atPort p)
  | .op p i :: rest => .operation i ((s.withInput rest).atPort p)
  | .reset :: rest => .reset (s.withInput rest)

/-- The addressed copy's deframer put in the context a sub-decode row is read in (log entry 2). -/
def State.enterContext (s : State) (ctx : RxState) : State :=
  match s.insts[s.port]? with
  | none => s
  | some t => s.withInst (t.setRxState ctx)

/-- `s` with the instruction of a numeral presented next at the current port; a sub-decode row's byte also puts the
deframer in the row's context (log entry 2). -/
def State.placeWord (s : State) (nbits w : Nat) : State :=
  match decodeTableWord nbits w with
  | none => s
  | some i =>
    if nbits = 8 then (s.enterContext (tableContext (BitVec.ofNat 8 w))).withInput (.op s.port i :: s.input)
    else s.withInput (.word s.port (BitVec.ofNat 20 w) :: s.input)

end Sys2Proof.Machine
end

