-- ==== Sys2Proof/Machine/Command.lean ====
section
/-! DEFINITION. The reserved command words (30_encoding.md R54). -/

namespace Sys2Proof.Machine

/-- A reserved word: `refuse(reserved-command)`, no state change, no event (30_encoding.md R54). -/
def execReserved (_w : Cmd) (_s : State) : Out State := .refused .reservedCommand

end Sys2Proof.Machine
end

