-- ==== Sys2Proof/Machine/Operands.lean ====
section
/-! DEFINITION. The operand forms: the two bytes of a word16 (20_memory.md R32), the word16 of the last two bytes of a
buffer (30_encoding.md R58), the substitution tables (R51, R56). -/

namespace Sys2Proof.Machine

/-- `c[7:0]`. -/
def lowByte (c : Word16) : Byte := c.extractLsb' 0 8

/-- `c[15:8]`. -/
def highByte (c : Word16) : Byte := c.extractLsb' 8 8

/-- `[c[7:0], c[15:8]]`: the order a CRC is carried in (20_memory.md R32). -/
def fcsBytes (c : Word16) : List Byte := [lowByte c, highByte c]

/-- `r = {B[n-1], B[n-2]}` (30_encoding.md R58). It is applied to buffers of at least two bytes only. -/
def receivedFcs (B : List Byte) : Word16 := B.getD (B.length - 1) 0#8 ++ B.getD (B.length - 2) 0#8

/-- `B[0 .. n-2)` (43_fcs.md R137). -/
def payloadOf (B : List Byte) : List Byte := B.take (B.length - 2)

/-- `stuff(d)` (42_framer.md R124; 30_encoding.md R51). -/
def stuff (d : Byte) : List Byte :=
  if d = startByte then [escapeByte, subStart]
  else if d = endByte then [escapeByte, subEnd]
  else if d = escapeByte then [escapeByte, subEscape]
  else [d]

/-- `encode(D)` (42_framer.md R124). -/
def frameEncode (D : List Byte) : List Byte := [startByte] ++ D.flatMap stuff ++ [endByte]

/-- The decoded byte of a substitution code (30_encoding.md R56; 41_deframer.md R97). -/
def unstuffed (b : Byte) : Option Byte :=
  if b = subStart then some startByte
  else if b = subEnd then some endByte
  else if b = subEscape then some escapeByte
  else none

end Sys2Proof.Machine
end

