-- ==== Sys2Proof/Machine/Crc.lean ====
section
/-! DEFINITION. The CRC-16 engine: CRC.INIT, CRC.BYTE, CRC.READ, CRC.COMPUTE (40_crc.md). -/

namespace Sys2Proof.Machine

/-- `POLY` (00_scope.md R4). -/
def crcPoly : Word16 := 0x1021#16

/-- One of the eight steps `t(k) -> t(k+1)` of 40_crc.md R73. -/
def crcShift (c : Word16) : Word16 := if c.getLsbD 15 then (c <<< 1) ^^^ crcPoly else c <<< 1

/-- `k` steps of 40_crc.md R73. -/
def crcShifts : Nat → Word16 → Word16
  | 0, c => c
  | k + 1, c => crcShifts k (crcShift c)

/-- `crc_update(c, d)` (40_crc.md R73). -/
def crcUpdate (c : Word16) (d : Byte) : Word16 := crcShifts 8 (c ^^^ (d ++ 0x00#8))

/-- `compute(seed, D)` (40_crc.md R74). -/
def compute : Word16 → List Byte → Word16
  | seed, [] => seed
  | seed, d :: D => compute (crcUpdate seed d) D

/-- CRC.BYTE on a copy (40_crc.md R71). -/
def Block.crcByte (d : Byte) (t : Block) : Out Block :=
  if t.crcValid then .next (t.setCrc (crcUpdate t.crc d)) else .refused .crcUnseeded

/-- The value CRC.READ returns (40_crc.md R72). -/
def Block.crcValue (t : Block) : Out Word16 :=
  if t.crcValid then .next t.crc else .refused .crcUnseeded

/-- The expansion of CRC.COMPUTE on a copy, with the word read (40_crc.md R79). -/
def Block.crcCompute (s : Word16) (D : List Byte) (t : Block) : Out (Block × Word16) :=
  andThen (runEach Block.crcByte D (t.seedCrc s)) fun t' =>
    andThen t'.crcValue fun c => .next (t', c)

/-- CRC.INIT s (40_crc.md R70). -/
def execCrcInit (v : Word16) (s : State) : Out State := s.onPort fun t => .next (t.seedCrc v)

/-- CRC.BYTE d (40_crc.md R71). -/
def execCrcByte (d : Byte) (s : State) : Out State := s.onPort fun t => t.crcByte d

/-- CRC.READ (40_crc.md R72). -/
def execCrcRead (s : State) : Out State :=
  s.onPort fun t => andThen t.crcValue fun c => .next (t.returns (.word c))

/-- CRC.COMPUTE s, D (40_crc.md R79). -/
def execCrcCompute (v : Word16) (D : List Byte) (s : State) : Out State :=
  s.onPort fun t => andThen (t.crcCompute v D) fun r => .next (r.1.returns (.word r.2))

end Sys2Proof.Machine
end

