-- ==== Sys2Proof/Machine/Deframer.lean ====
section
/-! DEFINITION. The deframer: RX.BYTE with its ten rows, RX.RESET, RX.STREAM (41_deframer.md). -/

namespace Sys2Proof.Machine

/-- `append(v)` (41_deframer.md R99). -/
def Block.append (v : Byte) (t : Block) : Block :=
  if t.rxLen < t.params.cap then
    ((t.store t.rxLen v).setRxLen (t.rxLen + 1)).setRxState .receiving
  else t.raiseRxError .bufferOverflow

/-- Begin a frame: "clear buffer, go to `Receiving`" (41_deframer.md R91). -/
def Block.beginFrame (t : Block) : Block := (t.setRxLen 0).setRxState .receiving

/-- Premature start (41_deframer.md R93). -/
def Block.prematureStart (t : Block) : Block :=
  (if t.params.pstartFlag then t.raiseRxError .prematureStart else t).beginFrame

/-- Complete the frame (41_deframer.md R94). -/
def Block.completeFrame (t : Block) : Out Block :=
  match Memory.copyFirst t.rxBuf t.rxLen with
  | none => .fault .unwrittenByte
  | some data => .next ((t.emitRx (t.frameEvent data)).setRxState .idle)

/-- Open an escape pair (41_deframer.md R95). -/
def Block.openEscape (t : Block) : Block := t.setRxState .escaped

/-- Bad escape sequence (41_deframer.md R98). -/
def Block.badEscape (t : Block) : Block := t.raiseRxError .badEscapeSequence

/-- RX.BYTE on a copy: the dispatch of 41_deframer.md R90. -/
def Block.rxByte (b : Byte) (t : Block) : Out Block :=
  match t.rxState with
  | .idle => if b = startByte then .next t.beginFrame else .next t
  | .receiving =>
    if b = startByte then .next t.prematureStart
    else if b = endByte then t.completeFrame
    else if b = escapeByte then .next t.openEscape
    else .next (t.append b)
  | .escaped =>
    match unstuffed b with
    | some v => .next (t.append v)
    | none => .next t.badEscape

/-- RX.STREAM on a copy (41_deframer.md R106). -/
def Block.rxStream (W : List Byte) (t : Block) : Out Block := runEach Block.rxByte W t

/-- A sub-decode row of RX.BYTE has its meaning only in its own state and for a byte of its class
(30_encoding.md R55, R56; log entry 8). -/
def Block.inRxRow (t : Block) (ctx : RxState) (ofClass : Bool) (o : Out Block) : Out Block :=
  if t.rxState = ctx ∧ ofClass = true then o else .refused .rowOutOfContext

/-- `decode(W)` for a deframer in `Idle` with parameters `p`: the data of the one FRAME event, if `W` makes exactly one
event and it is a FRAME (41_deframer.md R106). -/
def frameDecode (p : Params) (W : List Byte) : Option (List Byte) :=
  match (Block.reset p).rxStream W with
  | .next t =>
    match t.rxEvt with
    | [e] => if e.kind = .frame then some e.data else none
    | _ => none
  | .fault _ => none
  | .refused _ => none

/-- RX.RESET (41_deframer.md R100). -/
def execRxReset (s : State) : Out State := s.onPort fun t => .next ((t.setRxState .idle).setRxLen 0)

/-- RX.BYTE b (41_deframer.md R90). -/
def execRxByte (b : Byte) (s : State) : Out State := s.onPort fun t => t.rxByte b

/-- RX.BYTE in `Idle`, START (41_deframer.md R91). -/
def execRxIdleStart (s : State) : Out State :=
  s.onPort fun t => t.inRxRow .idle true (.next t.beginFrame)

/-- RX.BYTE in `Idle`, any other byte (41_deframer.md R92). -/
def execRxIdleOther (b : Byte) (s : State) : Out State :=
  s.onPort fun t => t.inRxRow .idle (b != startByte) (.next t)

/-- RX.BYTE in `Receiving`, START (41_deframer.md R93). -/
def execRxReceivingStart (s : State) : Out State :=
  s.onPort fun t => t.inRxRow .receiving true (.next t.prematureStart)

/-- RX.BYTE in `Receiving`, END (41_deframer.md R94). -/
def execRxReceivingEnd (s : State) : Out State :=
  s.onPort fun t => t.inRxRow .receiving true t.completeFrame

/-- RX.BYTE in `Receiving`, ESCAPE (41_deframer.md R95). -/
def execRxReceivingEscape (s : State) : Out State :=
  s.onPort fun t => t.inRxRow .receiving true (.next t.openEscape)

/-- RX.BYTE in `Receiving`, DATA (41_deframer.md R96). -/
def execRxReceivingData (b : Byte) (s : State) : Out State :=
  s.onPort fun t => t.inRxRow .receiving (!isReservedByte b) (.next (t.append b))

/-- RX.BYTE in `Escaped`, code of START (41_deframer.md R97). -/
def execRxEscapedSubStart (s : State) : Out State :=
  s.onPort fun t => t.inRxRow .escaped true (.next (t.append startByte))

/-- RX.BYTE in `Escaped`, code of END (41_deframer.md R97). -/
def execRxEscapedSubEnd (s : State) : Out State :=
  s.onPort fun t => t.inRxRow .escaped true (.next (t.append endByte))

/-- RX.BYTE in `Escaped`, code of ESCAPE (41_deframer.md R97). -/
def execRxEscapedSubEscape (s : State) : Out State :=
  s.onPort fun t => t.inRxRow .escaped true (.next (t.append escapeByte))

/-- RX.BYTE in `Escaped`, any other byte (41_deframer.md R98). -/
def execRxEscapedInvalid (b : Byte) (s : State) : Out State :=
  s.onPort fun t => t.inRxRow .escaped (!isSubCode b) (.next t.badEscape)

/-- RX.STREAM W: the bytes in order; its result is the events emitted (41_deframer.md R106). -/
def execRxStream (W : List Byte) (s : State) : Out State :=
  s.onPort fun t => andThen (t.rxStream W) fun t' =>
    .next (t'.returns (.events (t'.rxEvt.drop t.rxEvt.length)))

end Sys2Proof.Machine
end

