-- ==== Sys2Proof/Machine/Flags.lean ====
section
/-! DEFINITION. Status in place of flags. The block has no condition codes (10_state.md R21); its only status is the
`err` field of an event and the verdict of FCS.CHECK. Here are their relation and their numbers. -/

namespace Sys2Proof.Machine

/-- The ReceiveError a verdict of FCS.CHECK stands for (43_fcs.md R137, 60_exceptions.md R150). -/
def Verdict.receiveError : Verdict → ReceiveError
  | .ok _ => .none
  | .tooShort => .invalidPacketTooShort
  | .crcMismatch => .crcMismatch

/-- The number of a ReceiveError (60_exceptions.md R150). -/
def ReceiveError.code : ReceiveError → Nat
  | .none => 0
  | .prematureStart => 1
  | .bufferOverflow => 2
  | .badEscapeSequence => 3
  | .crcMismatch => 4
  | .invalidPacketTooShort => 5

/-- The number of a deframer state (10_state.md R15). -/
def rxStateCode : RxState → Nat
  | .idle => 0
  | .receiving => 1
  | .escaped => 2

/-- The number of a framer state (10_state.md R20). -/
def txStateCode : TxState → Nat
  | .txIdle => 0
  | .txOpen => 1

end Sys2Proof.Machine
end

