-- ==== Sys2Proof/Machine/Framer.lean ====
section
/-! DEFINITION. The framer: TX.START, TX.BYTE with its four rows, TX.END, TX.FRAME (42_framer.md). -/

namespace Sys2Proof.Machine

/-- TX.START on a copy (42_framer.md R120). -/
def Block.txStart (t : Block) : Out Block :=
  match t.txState with
  | .txIdle => .next ((t.emitTx startByte).setTxState .txOpen)
  | .txOpen => .refused .txSequence

/-- The two bytes of an escape pair, nothing between them (42_framer.md R121). -/
def Block.emitPair (code : Byte) (t : Block) : Block := (t.emitTx escapeByte).emitTx code

/-- TX.BYTE on a copy (42_framer.md R121). -/
def Block.txByte (d : Byte) (t : Block) : Out Block :=
  match t.txState with
  | .txIdle => .refused .txSequence
  | .txOpen =>
    if d = startByte then .next (t.emitPair subStart)
    else if d = endByte then .next (t.emitPair subEnd)
    else if d = escapeByte then .next (t.emitPair subEscape)
    else .next (t.emitTx d)

/-- TX.END on a copy (42_framer.md R122). -/
def Block.txEnd (t : Block) : Out Block :=
  match t.txState with
  | .txIdle => .refused .txSequence
  | .txOpen => .next ((t.emitTx endByte).setTxState .txIdle)

/-- The expansion of TX.FRAME on a copy (42_framer.md R125). -/
def Block.txFrame (D : List Byte) (t : Block) : Out Block :=
  andThen t.txStart fun t' => andThen (runEach Block.txByte D t') Block.txEnd

/-- A sub-decode row of TX.BYTE: out of order in `TxIdle` as TX.BYTE itself is (42_framer.md R123), and without a
meaning for a byte its class excludes (30_encoding.md R57; log entry 8). -/
def Block.inTxRow (t : Block) (ofClass : Bool) (o : Out Block) : Out Block :=
  match t.txState with
  | .txIdle => .refused .txSequence
  | .txOpen => if ofClass = true then o else .refused .rowOutOfContext

/-- TX.START (42_framer.md R120). -/
def execTxStart (s : State) : Out State := s.onPort fun t => t.txStart

/-- TX.BYTE d (42_framer.md R121). -/
def execTxByte (d : Byte) (s : State) : Out State := s.onPort fun t => t.txByte d

/-- TX.END (42_framer.md R122). -/
def execTxEnd (s : State) : Out State := s.onPort fun t => t.txEnd

/-- TX.BYTE of START (42_framer.md R121). -/
def execTxByteStartValued (s : State) : Out State :=
  s.onPort fun t => t.inTxRow true (.next (t.emitPair subStart))

/-- TX.BYTE of END (42_framer.md R121). -/
def execTxByteEndValued (s : State) : Out State :=
  s.onPort fun t => t.inTxRow true (.next (t.emitPair subEnd))

/-- TX.BYTE of ESCAPE (42_framer.md R121). -/
def execTxByteEscapeValued (s : State) : Out State :=
  s.onPort fun t => t.inTxRow true (.next (t.emitPair subEscape))

/-- TX.BYTE of any other byte (42_framer.md R121). -/
def execTxBytePlain (d : Byte) (s : State) : Out State :=
  s.onPort fun t => t.inTxRow (!isReservedByte d) (.next (t.emitTx d))

/-- TX.FRAME D (42_framer.md R125). -/
def execTxFrame (D : List Byte) (s : State) : Out State := s.onPort fun t => t.txFrame D

end Sys2Proof.Machine
end

