-- ==== Sys2Proof/Machine/Fcs.lean ====
section
/-! DEFINITION. The frame check sequence: FCS.APPEND, FCS.CHECK, TX.PACKET, and the receive pipeline (43_fcs.md). -/

namespace Sys2Proof.Machine

/-- `FCS_SEED` (00_scope.md R4). -/
def fcsSeed : Word16 := 0x0000#16

/-- `FCS_MIN_LEN` (00_scope.md R4). -/
def fcsMinLen : Nat := 3

/-- The expansion of FCS.APPEND on a copy, with the sequence it returns (43_fcs.md R136). -/
def Block.fcsAppend (P : List Byte) (t : Block) : Out (Block × List Byte) :=
  andThen (t.crcCompute fcsSeed P) fun r => .next (r.1, P ++ fcsBytes r.2)

/-- The verdict on `B` given the CRC `c` computed over its payload (43_fcs.md R137). -/
def verdictOf (B : List Byte) (c : Word16) : Verdict :=
  if c = receivedFcs B then .ok (payloadOf B) else .crcMismatch

/-- The expansion of FCS.CHECK on a copy, with its verdict: length first, then the CRC (43_fcs.md R137). -/
def Block.fcsCheck (B : List Byte) (t : Block) : Out (Block × Verdict) :=
  if B.length < fcsMinLen then .next (t, .tooShort)
  else andThen (t.crcCompute fcsSeed (payloadOf B)) fun r => .next (r.1, verdictOf B r.2)

/-- The expansion of TX.PACKET on a copy: the whole CRC, then the whole frame (43_fcs.md R139). -/
def Block.txPacket (P : List Byte) (t : Block) : Out Block :=
  andThen (t.fcsAppend P) fun r => r.1.txFrame r.2

/-- The verdict FCS.CHECK gives on `B`, as a function (43_fcs.md R137). -/
def fcsVerdict (B : List Byte) : Verdict :=
  if B.length < fcsMinLen then .tooShort else verdictOf B (compute fcsSeed (payloadOf B))

/-- The ReceiveError the consumer obtains for an event (43_fcs.md R140). -/
def Event.receiveError (e : Event) : ReceiveError :=
  match e.kind with
  | .error => e.err
  | .frame => (fcsVerdict e.data).receiveError

/-- FCS.APPEND P (43_fcs.md R136). -/
def execFcsAppend (P : List Byte) (s : State) : Out State :=
  s.onPort fun t => andThen (t.fcsAppend P) fun r => .next (r.1.returns (.bytes r.2))

/-- FCS.CHECK B (43_fcs.md R137). -/
def execFcsCheck (B : List Byte) (s : State) : Out State :=
  s.onPort fun t => andThen (t.fcsCheck B) fun r => .next (r.1.returns (.verdict r.2))

/-- TX.PACKET P (43_fcs.md R139). -/
def execTxPacket (P : List Byte) (s : State) : Out State := s.onPort fun t => t.txPacket P

end Sys2Proof.Machine
end

