-- ==== Sys2Proof/Machine/Dispatch.lean ====
section
/-! DEFINITION. One arm per row of spec/opcode_table.json. -/

namespace Sys2Proof.Machine

def exec (i : Instr) (s : State) : Host.Outcome State Fault Refusal :=
  match i with
  | .crcInit v => Sys2Proof.Machine.execCrcInit v s
  | .crcByte d => Sys2Proof.Machine.execCrcByte d s
  | .crcRead => Sys2Proof.Machine.execCrcRead s
  | .rxReset => Sys2Proof.Machine.execRxReset s
  | .rxByte b => Sys2Proof.Machine.execRxByte b s
  | .txStart => Sys2Proof.Machine.execTxStart s
  | .txByte d => Sys2Proof.Machine.execTxByte d s
  | .txEnd => Sys2Proof.Machine.execTxEnd s
  | .reserved w => Sys2Proof.Machine.execReserved w s
  | .rxIdleStart => Sys2Proof.Machine.execRxIdleStart s
  | .rxIdleOther b => Sys2Proof.Machine.execRxIdleOther b s
  | .rxReceivingStart => Sys2Proof.Machine.execRxReceivingStart s
  | .rxReceivingEnd => Sys2Proof.Machine.execRxReceivingEnd s
  | .rxReceivingEscape => Sys2Proof.Machine.execRxReceivingEscape s
  | .rxReceivingData b => Sys2Proof.Machine.execRxReceivingData b s
  | .rxEscapedSubStart => Sys2Proof.Machine.execRxEscapedSubStart s
  | .rxEscapedSubEnd => Sys2Proof.Machine.execRxEscapedSubEnd s
  | .rxEscapedSubEscape => Sys2Proof.Machine.execRxEscapedSubEscape s
  | .rxEscapedInvalid b => Sys2Proof.Machine.execRxEscapedInvalid b s
  | .txByteStartValued => Sys2Proof.Machine.execTxByteStartValued s
  | .txByteEndValued => Sys2Proof.Machine.execTxByteEndValued s
  | .txByteEscapeValued => Sys2Proof.Machine.execTxByteEscapeValued s
  | .txBytePlain d => Sys2Proof.Machine.execTxBytePlain d s
  | .crcCompute v D => Sys2Proof.Machine.execCrcCompute v D s
  | .txFrame D => Sys2Proof.Machine.execTxFrame D s
  | .fcsAppend P => Sys2Proof.Machine.execFcsAppend P s
  | .fcsCheck B => Sys2Proof.Machine.execFcsCheck B s
  | .txPacket P => Sys2Proof.Machine.execTxPacket P s
  | .rxStream W => Sys2Proof.Machine.execRxStream W s

end Sys2Proof.Machine
end

