-- ==== Sys2Proof/Machine/Step.lean ====
section
/-! DEFINITION. One step: what the environment presents next, executed (00_scope.md section 5.3). With nothing presented
the block does nothing: "The block does nothing between steps." -/

namespace Sys2Proof.Machine

/-- One step of the machine. -/
def step (s : State) : Host.Outcome State Fault Refusal :=
  match present s with
  | .nothing => .next s
  | .reset s' => .next (State.resetEvent s')
  | .operation i s' => exec i s'

/-- `s` with the instruction of a numeral presented next (log entry 2). -/
def State.withFetchWord (s : State) (nbits w : Nat) : State := State.placeWord s nbits w

end Sys2Proof.Machine
end

