-- ==== Sys2Proof/WellFormed.lean ====
section
/-! DEFINITION. Which terms of Instr are rows of the opcode table with operands the row admits. The literals are the
table's own columns match, mask and excludes. -/

namespace Sys2Proof

/-- The word matches no row of 30_encoding.md R53, row by row `w & mask = match`. -/
def Cmd.matchesNoRow (w : Cmd) : Bool :=
  !(w &&& 0xF0000#20 == 0x10000#20) && !(w &&& 0xFFF00#20 == 0x20000#20) && !(w &&& 0xFFFFF#20 == 0x30000#20) &&
  !(w &&& 0xFFFFF#20 == 0x40000#20) && !(w &&& 0xFFF00#20 == 0x50000#20) && !(w &&& 0xFFFFF#20 == 0x60000#20) &&
  !(w &&& 0xFFF00#20 == 0x70000#20) && !(w &&& 0xFFFFF#20 == 0x80000#20)

/-- Every operand is one its row admits: the default rows of the sub-decodes exclude the values that have a row of
their own (30_encoding.md R55 to R57), and a reserved word matches no row (30_encoding.md R54). -/
def Instr.wellFormed : Instr → Bool
  | .reserved w => Cmd.matchesNoRow w
  | .rxIdleOther b => b != 0xA0#8
  | .rxReceivingData b => b != 0xA0#8 && b != 0x05#8 && b != 0xF0#8
  | .rxEscapedInvalid b => b != 0x01#8 && b != 0x02#8 && b != 0xF0#8
  | .txBytePlain d => d != 0xA0#8 && d != 0x05#8 && d != 0xF0#8
  | .crcInit _ | .crcByte _ | .crcRead | .rxReset | .rxByte _ | .txStart | .txByte _ | .txEnd
  | .rxIdleStart | .rxReceivingStart | .rxReceivingEnd | .rxReceivingEscape
  | .rxEscapedSubStart | .rxEscapedSubEnd | .rxEscapedSubEscape
  | .txByteStartValued | .txByteEndValued | .txByteEscapeValued
  | .crcCompute _ _ | .txFrame _ | .fcsAppend _ | .fcsCheck _ | .txPacket _ | .rxStream _ => true

end Sys2Proof
end

