-- ==== Sys2Proof/Safety.lean ====
section
/-! DEFINITION. What counts as a safe state and a safe run, and the terms the statements use. -/

namespace Sys2Proof

/-- The rows that drive the CRC engine only (40_crc.md; FCS.APPEND and FCS.CHECK by 43_fcs.md R136, R137). -/
def Instr.drivesCrcOnly : Instr → Bool
  | .crcInit _ | .crcByte _ | .crcRead | .crcCompute _ _ | .fcsAppend _ | .fcsCheck _ => true
  | .rxReset | .rxByte _ | .rxIdleStart | .rxIdleOther _ | .rxReceivingStart | .rxReceivingEnd | .rxReceivingEscape
  | .rxReceivingData _ | .rxEscapedSubStart | .rxEscapedSubEnd | .rxEscapedSubEscape | .rxEscapedInvalid _
  | .rxStream _ | .txStart | .txByte _ | .txEnd | .txByteStartValued | .txByteEndValued | .txByteEscapeValued
  | .txBytePlain _ | .txFrame _ | .txPacket _ | .reserved _ => false

/-- The rows that drive the deframer only (41_deframer.md). -/
def Instr.drivesDeframerOnly : Instr → Bool
  | .rxReset | .rxByte _ | .rxIdleStart | .rxIdleOther _ | .rxReceivingStart | .rxReceivingEnd | .rxReceivingEscape
  | .rxReceivingData _ | .rxEscapedSubStart | .rxEscapedSubEnd | .rxEscapedSubEscape | .rxEscapedInvalid _
  | .rxStream _ => true
  | .crcInit _ | .crcByte _ | .crcRead | .crcCompute _ _ | .fcsAppend _ | .fcsCheck _
  | .txStart | .txByte _ | .txEnd | .txByteStartValued | .txByteEndValued | .txByteEscapeValued
  | .txBytePlain _ | .txFrame _ | .txPacket _ | .reserved _ => false

/-- The rows that drive the framer only (42_framer.md). -/
def Instr.drivesFramerOnly : Instr → Bool
  | .txStart | .txByte _ | .txEnd | .txByteStartValued | .txByteEndValued | .txByteEscapeValued
  | .txBytePlain _ | .txFrame _ => true
  | .crcInit _ | .crcByte _ | .crcRead | .crcCompute _ _ | .fcsAppend _ | .fcsCheck _
  | .rxReset | .rxByte _ | .rxIdleStart | .rxIdleOther _ | .rxReceivingStart | .rxReceivingEnd | .rxReceivingEscape
  | .rxReceivingData _ | .rxEscapedSubStart | .rxEscapedSubEnd | .rxEscapedSubEscape | .rxEscapedInvalid _
  | .rxStream _ | .txPacket _ | .reserved _ => false

end Sys2Proof

namespace Sys2Proof.Machine

/-- What holds of one copy after reset and after every step (10_state.md R22; 20_memory.md R30; 41_deframer.md R102):
a capacity of at least 1, a length within it, a buffer in canonical form with no index at or above the capacity, and
every byte below the length stored. -/
def Block.Inv (t : Block) : Prop :=
  1 ≤ t.params.cap ∧ t.rxLen ≤ t.params.cap ∧ Memory.wf t.rxBuf = true ∧
  (∀ a, t.params.cap ≤ a → Memory.read t.rxBuf a = none) ∧
  (∀ a, a < t.rxLen → (Memory.read t.rxBuf a).isSome = true)

/-- Every copy satisfies `Block.Inv` and bears the number of its command port (00_scope.md R4, 10_state.md R25). -/
def State.Inv (s : State) : Prop :=
  ∀ (k : Nat) (t : Block), s.insts[k]? = some t → t.params.instId = k ∧ t.Inv

/-- An event as 10_state.md R18 has it, of a copy with parameters `p`: stamped with its identity; a FRAME has no error
and as many bytes as its length, at most `CAP`; an ERROR is one of the deframer's three and carries no bytes. -/
def Event.wf (p : Params) (e : Event) : Prop :=
  e.src = p.instId ∧
  match e.kind with
  | .frame => e.err = .none ∧ e.len = e.data.length ∧ e.len ≤ p.cap
  | .error =>
    (e.err = .prematureStart ∨ e.err = .bufferOverflow ∨ e.err = .badEscapeSequence) ∧ e.len = 0 ∧ e.data = []

/-- The framer's output is whole frames, and behind them the beginning of one more while a frame is open
(42_framer.md R123, R125). -/
def Block.sendsFrames (t : Block) : Prop :=
  ∃ sent : List (List Byte),
    match t.txState with
    | .txIdle => t.txOut = sent.flatMap frameEncode
    | .txOpen => ∃ D : List Byte, t.txOut = sent.flatMap frameEncode ++ [startByte] ++ D.flatMap stuff

/-- The CRC engine of two copies is the same. -/
def sameCrcEngine (t u : Block) : Prop := u.crc = t.crc ∧ u.crcValid = t.crcValid

/-- The framer of two copies is the same. -/
def sameFramer (t u : Block) : Prop := u.txState = t.txState ∧ u.txOut = t.txOut

/-- The deframer of two copies is the same. -/
def sameDeframer (t u : Block) : Prop :=
  u.rxState = t.rxState ∧ u.rxLen = t.rxLen ∧ u.rxBuf = t.rxBuf ∧ u.rxEvt = t.rxEvt

/-- The machine after operation `i`, apart from the copy at the current port: every other copy, the port and the
input are as before (10_state.md R25). -/
def othersSame (s s' : State) : Prop :=
  s'.port = s.port ∧ s'.input = s.input ∧ s'.insts.length = s.insts.length ∧
  ∀ k, k ≠ s.port → s'.insts[k]? = s.insts[k]?

/-- `exec i s` answers a next state in which the copy at the current port is `u` and nothing else has changed. -/
def completesAs (i : Instr) (s : State) (u : Block) : Prop :=
  ∃ s', exec i s = .next s' ∧ s'.insts[s.port]? = some u ∧ othersSame s s'

/-- An operation presented at a given command port. -/
def execAt (p : Nat) (i : Instr) (s : State) : Out State := exec i (s.atPort p)

/-- Several operations one after the other, stopping at the first that does not answer a next state. -/
def execAll : List Instr → State → Out State
  | [], s => .next s
  | i :: is, s => andThen (exec i s) (execAll is)

/-- Quiescent: no frame open in either direction on any copy (70_reset_and_hazards.md R182). -/
def State.quiescent (s : State) : Bool :=
  s.insts.all fun t => t.rxState == .idle && t.txState == .txIdle

/-- A safe run: `n` steps of `core` from `s` that end in a next state (70_reset_and_hazards.md R182: a refused operation
ends the run with no outcome). -/
def safeRun (n : Nat) (s : State) : Prop := ∃ s', Host.Core.run core n s = .next s'

end Sys2Proof.Machine
end

