-- ==== Sys2Proof/Certificates/Slice0/Obligations.lean ====
section
/-! DEFINITION. The statements. The hypothesis `s.insts[s.port]? = some t` names the addressed copy `t` of the block
(every other copy is covered by `completesAs`, which says that nothing but that copy changes). A next state is written
as the copy's record with the fields the rule changes: every field not named there is unchanged, which is the frame. -/

open Sys2Proof Sys2Proof.Machine

/-! ### Encodings -/

/-- Command words written out in the spec (30_encoding.md R61, 95_test_vectors.md P1 and P2) decode to what they stand
for. The numbers of the operations are the spec's own choice, 92 D2. -/
def Obligations.CommandWordsOfTheSpecDecode : Prop :=
  decodeWord 0x20031#20 = .crcByte 0x31#8 ∧ decodeWord 0x1FFFF#20 = .crcInit 0xFFFF#16 ∧
  decodeWord 0x500A0#20 = .rxByte 0xA0#8 ∧ decodeWord 0x30000#20 = .crcRead ∧
  decodeWord 0x40000#20 = .rxReset ∧ decodeWord 0x60000#20 = .txStart ∧
  decodeWord 0x70057#20 = .txByte 0x57#8 ∧ decodeWord 0x80000#20 = .txEnd ∧
  decodeWord 0x00031#20 = .reserved 0x00031#20 ∧ decodeWord 0x20131#20 = .reserved 0x20131#20

/-- Decoding the coded form of a well-formed row gives the row back, every operand kept; every row but a composite has
a coded form (30_encoding.md R53 to R57, R60; op numbers 92 D2). -/
def Obligations.DecodeOfEncodeIsTheRow : Prop :=
  ∀ i : Instr, i.wellFormed = true → i.isComposite = false → ∃ f, encode i = some f ∧ decode f = i

/-- Every coded form stands for exactly one row: the row decoded from it is well formed and has it as its coded form,
so that no word and no byte is left out, and no other well-formed row has it, so that the rows do not overlap
(30_encoding.md R53 to R57; op numbers 92 D2). -/
def Obligations.EncodeOfDecodeIsTheForm : Prop :=
  ∀ f : Form, (decode f).wellFormed = true ∧ encode (decode f) = some f ∧
    ∀ i : Instr, i.wellFormed = true → encode i = some f → i = decode f

/-- A word selects the row whose match it equals under the row's mask, and is reserved where it selects none
(30_encoding.md R53, R54; the layout is the spec's own choice, 92 D2 and D14). -/
def Obligations.WordSelectsRowByMaskAndMatch : Prop :=
  ∀ w : Cmd,
    ((∃ v, decodeWord w = .crcInit v) ↔ w &&& 0xF0000#20 = 0x10000#20) ∧
    ((∃ d, decodeWord w = .crcByte d) ↔ w &&& 0xFFF00#20 = 0x20000#20) ∧
    (decodeWord w = .crcRead ↔ w &&& 0xFFFFF#20 = 0x30000#20) ∧
    (decodeWord w = .rxReset ↔ w &&& 0xFFFFF#20 = 0x40000#20) ∧
    ((∃ b, decodeWord w = .rxByte b) ↔ w &&& 0xFFF00#20 = 0x50000#20) ∧
    (decodeWord w = .txStart ↔ w &&& 0xFFFFF#20 = 0x60000#20) ∧
    ((∃ d, decodeWord w = .txByte d) ↔ w &&& 0xFFF00#20 = 0x70000#20) ∧
    (decodeWord w = .txEnd ↔ w &&& 0xFFFFF#20 = 0x80000#20) ∧
    (decodeWord w = .reserved w ↔ Cmd.matchesNoRow w = true)

/-! ### The step, reset, and the stops -/

/-- A step runs what the environment presents next, at the port it is presented to: a command word as the operation it
decodes to, a named operation as itself; RESET keeps the parameters and leaves every copy unseeded, in `Idle` with
length 0 and in `TxIdle`; with nothing presented the block does nothing (00_scope.md section 5.3, 92 D1; 70 R170, 92
D11; the input list and the port are the model's own, log entry 1). -/
def Obligations.StepRunsThePresentedOperation : Prop :=
  ∀ s : State,
    (s.input = [] → step s = .next s) ∧
    (∀ p w rest, s.input = .word p w :: rest → step s = exec (decodeWord w) { s with input := rest, port := p }) ∧
    (∀ p i rest, s.input = .op p i :: rest → step s = exec i { s with input := rest, port := p }) ∧
    (∀ rest, s.input = .reset :: rest → ∃ s', step s = .next s' ∧ s'.input = rest ∧
      s'.insts.map (fun u => u.params) = s.insts.map (fun t => t.params) ∧
      ∀ u ∈ s'.insts, u.crcValid = false ∧ u.rxState = .idle ∧ u.rxLen = 0 ∧ u.txState = .txIdle)

/-- RESET leaves every copy with its parameters, an unseeded CRC engine, the deframer in `Idle` with length 0, the
framer in `TxIdle`, and emits nothing (70 R170 and 10_state.md R23, the spec's own choice 92 D11; that the streams of
the new run start empty is log entry 7). -/
def Obligations.ResetEventResetsEveryCopy : Prop :=
  ∀ (s : State) (rest : List Input), s.input = .reset :: rest → ∃ s',
    step s = .next s' ∧ s'.input = rest ∧ s'.insts.length = s.insts.length ∧
    ∀ (k : Nat) (t : Block), s.insts[k]? = some t → ∃ u : Block, s'.insts[k]? = some u ∧
      u.params = t.params ∧ u.crcValid = false ∧ u.rxState = .idle ∧ u.rxLen = 0 ∧ u.txState = .txIdle ∧
      u.rxEvt = [] ∧ u.txOut = []

/-- The machine after reset: `N_INST` copies, copy `k` with identity `k` and a capacity of at least 1, each unseeded, in
`Idle` with length 0, in `TxIdle`, nothing emitted (00_scope.md R4, 10_state.md R23; the reset values are the spec's own
choice 92 D11). The OPEN parameters have no value here, log entry 4. The model's own: that there is at least one copy,
for which R4 sets no minimum (DEDUCED in log entry 4), and that nothing is presented yet (log entry 1). -/
def Obligations.StateAfterReset : Prop :=
  State.reset.insts.length = Config.nInst ∧ 1 ≤ Config.nInst ∧ State.reset.input = [] ∧
  ∀ (k : Nat) (t : Block), State.reset.insts[k]? = some t →
    t.params.instId = k ∧ 1 ≤ t.params.cap ∧ t.crcValid = false ∧ t.rxState = .idle ∧ t.rxLen = 0 ∧
    t.txState = .txIdle ∧ t.rxEvt = [] ∧ t.txOut = []

/-- A reserved word is refused by name in every state, and the words with an operation number of 0 or above 8 are such
words (30_encoding.md R54, the spec's own choice 92 D14). -/
def Obligations.ReservedWordsAreRefused : Prop :=
  (∀ (w : Cmd) (s : State), exec (.reserved w) s = .refused .reservedCommand) ∧
  ∀ w : Cmd, w.op = 0#4 ∨ 8#4 < w.op → decodeWord w = .reserved w

/-- An operation other than a reserved word, presented at a port no copy has, stops with a fault: the model's choice,
log entry 10 (00_scope.md R4: identities are 0 to N_INST - 1). -/
def Obligations.PortWithoutACopyFaults : Prop :=
  ∀ (i : Instr) (s : State), s.insts.length ≤ s.port → (∀ w, i ≠ .reserved w) → exec i s = .fault .noSuchInstance

/-- CRC.BYTE and CRC.READ before the first CRC.INIT are refused by name (40_crc.md R71 and R72, the spec's own choice
92 D12). -/
def Obligations.UnseededEngineIsRefused : Prop :=
  ∀ (s : State) (t : Block) (d : Byte), s.insts[s.port]? = some t → t.crcValid = false →
    exec (.crcByte d) s = .refused .crcUnseeded ∧ exec .crcRead s = .refused .crcUnseeded

/-- A framer operation out of order is refused by name: TX.START while a frame is open, TX.BYTE with its rows and TX.END
while none is (42_framer.md R123, the spec's own choice 92 D13; the rows log entry 8). TX.FRAME, which begins with
TX.START (42_framer.md R125), and TX.PACKET, whose expansion is the whole CRC computation and then TX.FRAME (43_fcs.md
R139), are refused while a frame is open: that a refusal inside the expansion refuses the composite whole is the
model's choice, log entry 9. -/
def Obligations.FramerOutOfOrderIsRefused : Prop :=
  ∀ (s : State) (t : Block) (d : Byte) (D : List Byte), s.insts[s.port]? = some t →
    (t.txState = .txOpen →
      exec .txStart s = .refused .txSequence ∧ exec (.txFrame D) s = .refused .txSequence ∧
      exec (.txPacket D) s = .refused .txSequence) ∧
    (t.txState = .txIdle →
      exec (.txByte d) s = .refused .txSequence ∧ exec .txEnd s = .refused .txSequence ∧
      exec .txByteStartValued s = .refused .txSequence ∧ exec .txByteEndValued s = .refused .txSequence ∧
      exec .txByteEscapeValued s = .refused .txSequence ∧ exec (.txBytePlain d) s = .refused .txSequence)

/-- A row of RX.BYTE's sub-decode presented in another state than its own stops by name, and a term that is no row of
the table (an operand its row excludes) never runs: the model's choice, log entry 8 (the rows' contexts and classes:
30_encoding.md section 2). -/
def Obligations.RowOutOfContextIsRefused : Prop :=
  (∀ (s : State) (t : Block) (ctx : RxState) (b : Byte), s.insts[s.port]? = some t → t.rxState ≠ ctx →
    exec (decodeWire ctx b) s = .refused .rowOutOfContext) ∧
  ∀ (i : Instr) (s s' : State), i.wellFormed = false → exec i s ≠ .next s'

/-! ### The CRC engine -/

/-- CRC.INIT loads the seed, in any state (40_crc.md R70). -/
def Obligations.CrcInitLoadsTheSeed : Prop :=
  ∀ (s : State) (t : Block) (v : Word16), s.insts[s.port]? = some t →
    completesAs (.crcInit v) s { t with crc := v, crcValid := true }

/-- CRC.BYTE on a seeded engine updates the accumulator and nothing else; the reserved framing values are plain data
(40_crc.md R71; `crc_valid` is the spec's own element, 92 D12). -/
def Obligations.CrcByteUpdatesTheAccumulator : Prop :=
  ∀ (s : State) (t : Block) (d : Byte), s.insts[s.port]? = some t → t.crcValid = true →
    completesAs (.crcByte d) s { t with crc := crcUpdate t.crc d }

/-- CRC.READ on a seeded engine returns the accumulator as it stands and changes no state of the block (40_crc.md R72;
`crc_valid` is 92 D12; the history of returned values is the model's own, log entry 3). -/
def Obligations.CrcReadReturnsTheAccumulator : Prop :=
  ∀ (s : State) (t : Block), s.insts[s.port]? = some t → t.crcValid = true →
    completesAs .crcRead s { t with results := t.results ++ [.word t.crc] }

/-- `crc_update` is the eight steps of 40_crc.md R73, which the spec takes from general knowledge (93 G1): the byte into
the high byte, then eight times a left shift with 0x1021 exclusive-ored in exactly when the bit shifted out is 1. -/
def Obligations.CrcUpdateIsEightShiftSteps : Prop :=
  ∀ (c : Word16) (d : Byte), ∃ x : Nat → Word16,
    x 0 = c ^^^ (d.setWidth 16 <<< 8) ∧
    (∀ k, k < 8 → x (k + 1) = if (x k).msb then (x k <<< 1) ^^^ 0x1021#16 else x k <<< 1) ∧
    crcUpdate c d = x 8

/-- The table form of the update (40_crc.md R75, derived by the spec from R73). -/
def Obligations.CrcUpdateTableForm : Prop :=
  ∀ (c : Word16) (d : Byte), crcUpdate c d = (c <<< 8) ^^^ crcUpdate 0#16 (c.extractLsb' 8 8 ^^^ d)

/-- `compute` is the left fold of the update over the bytes (40_crc.md R74). -/
def Obligations.ComputeIsTheLeftFold : Prop :=
  ∀ (seed : Word16) (D : List Byte), compute seed D = D.foldl crcUpdate seed

/-- Chaining and linearity (40_crc.md R77 items 2 and 3, derived by the spec). -/
def Obligations.ComputeChainsAndIsLinear : Prop :=
  (∀ (v : Word16) (D E : List Byte), compute v (D ++ E) = compute (compute v D) E) ∧
  (∀ (a b : Word16) (d e : Byte), crcUpdate (a ^^^ b) (d ^^^ e) = crcUpdate a d ^^^ crcUpdate b e) ∧
  (∀ (v w : Word16) (D : List Byte),
    compute (v ^^^ w) D = compute v D ^^^ compute w (List.replicate D.length 0#8))

/-- The big-endian residue is zero (40_crc.md R77 item 5, derived by the spec). -/
def Obligations.BigEndianResidueIsZero : Prop :=
  ∀ (v : Word16) (D : List Byte),
    compute v (D ++ [(compute v D).extractLsb' 8 8, (compute v D).extractLsb' 0 8]) = 0#16

/-- With seed 0 leading zero bytes do not change the CRC, and a buffer of three or more zero bytes passes the check
(40_crc.md R77 item 4, 43_fcs.md R141 item 5 and 70 R180, derived by the spec). -/
def Obligations.LeadingZerosAreInvisible : Prop :=
  (∀ (n : Nat) (D : List Byte), compute 0#16 (List.replicate n 0#8 ++ D) = compute 0#16 D) ∧
  ∀ n : Nat, 3 ≤ n → fcsVerdict (List.replicate n 0#8) = .ok (List.replicate (n - 2) 0#8)

/-- The check values of 40_crc.md R81 and the table entries of R75, computed by the spec from R73. -/
def Obligations.CrcCheckValues : Prop :=
  compute 0x0000#16 [] = 0x0000#16 ∧ compute 0xFFFF#16 [] = 0xFFFF#16 ∧
  compute 0x0000#16 [0x31#8, 0x32#8, 0x33#8, 0x34#8, 0x35#8, 0x36#8, 0x37#8, 0x38#8, 0x39#8] = 0x31C3#16 ∧
  compute 0xFFFF#16 [0x31#8, 0x32#8, 0x33#8, 0x34#8, 0x35#8, 0x36#8, 0x37#8, 0x38#8, 0x39#8] = 0x29B1#16 ∧
  crcUpdate 0#16 0x01#8 = 0x1021#16 ∧ crcUpdate 0#16 0x80#8 = 0x9188#16 ∧ crcUpdate 0#16 0xFF#8 = 0x1EF0#16

/-- CRC.COMPUTE is never refused, leaves and returns `compute`, and is its expansion into primitives (40_crc.md R79;
that a composite is presented by name and executed in one step is log entry 9, that its returned value is appended to a
history, once, is log entry 3, both the model's own; `crc_valid` is 92 D12). -/
def Obligations.CrcComputeIsItsExpansion : Prop :=
  ∀ (s : State) (t : Block) (v : Word16) (D : List Byte), s.insts[s.port]? = some t →
    completesAs (.crcCompute v D) s
      { t with crc := compute v D, crcValid := true, results := t.results ++ [.word (compute v D)] } ∧
    execAll (.crcInit v :: D.map .crcByte ++ [.crcRead]) s = exec (.crcCompute v D) s

/-! ### The deframer -/

/-- `Idle` + START begins a frame, as the row and as RX.BYTE (41_deframer.md R91). -/
def Obligations.IdleStartBeginsAFrame : Prop :=
  ∀ (s : State) (t : Block), s.insts[s.port]? = some t → t.rxState = .idle →
    completesAs .rxIdleStart s { t with rxLen := 0, rxState := .receiving } ∧
    completesAs (.rxByte 0xA0#8) s { t with rxLen := 0, rxState := .receiving }

/-- `Idle` + any other byte is discarded without trace (41_deframer.md section 3, the spec's own choice 92 D6). -/
def Obligations.IdleDiscardsAnyOtherByte : Prop :=
  ∀ (s : State) (t : Block) (b : Byte), s.insts[s.port]? = some t → t.rxState = .idle → b ≠ 0xA0#8 →
    exec (.rxIdleOther b) s = .next s ∧ exec (.rxByte b) s = .next s

/-- `Receiving` + START: the event if `PSTART_FLAG`, length 0, still `Receiving`, whatever the length was
(41_deframer.md section 4, the spec's own choices 92 D5 and D8). -/
def Obligations.PrematureStartRestartsTheFrame : Prop :=
  ∀ (s : State) (t : Block), s.insts[s.port]? = some t → t.rxState = .receiving →
    ∃ u : Block, completesAs .rxReceivingStart s u ∧ completesAs (.rxByte 0xA0#8) s u ∧
      u = { t with
        rxLen := 0
        rxEvt := if t.params.pstartFlag then
          t.rxEvt ++ [{ src := t.params.instId, kind := .error, err := .prematureStart, len := 0, data := [] }]
          else t.rxEvt }

/-- `Receiving` + END delivers a copy of the bytes assembled, in order, and returns to `Idle` with length and buffer
kept; no minimum length and no check (41_deframer.md R94; that `src` and no error stand on the event is the spec's own
choice 92 D8, log entry 13; that the data is a copy and length and buffer are kept is its choice 92 D9, log entry 14).
The hypothesis is the part of the invariant that says the
bytes below the length have been stored; `StepKeepsTheInvariant` rules the other states out. -/
def Obligations.EndDeliversTheBuffer : Prop :=
  ∀ (s : State) (t : Block), s.insts[s.port]? = some t → t.rxState = .receiving →
    (∀ a, a < t.rxLen → (Memory.read t.rxBuf a).isSome = true) →
    ∃ (data : List Byte) (u : Block),
      data.length = t.rxLen ∧ (∀ a, a < t.rxLen → Memory.read t.rxBuf a = data[a]?) ∧
      completesAs .rxReceivingEnd s u ∧ completesAs (.rxByte 0x05#8) s u ∧
      u = { t with
        rxState := .idle
        rxEvt := t.rxEvt ++
          [{ src := t.params.instId, kind := .frame, err := .none, len := t.rxLen, data := data }] }

/-- `Receiving` + ESCAPE opens an escape pair, at any length (41_deframer.md R95). -/
def Obligations.EscapeOpensAPair : Prop :=
  ∀ (s : State) (t : Block), s.insts[s.port]? = some t → t.rxState = .receiving →
    completesAs .rxReceivingEscape s { t with rxState := .escaped } ∧
    completesAs (.rxByte 0xF0#8) s { t with rxState := .escaped }

/-- A DATA byte under capacity is stored at index `rx_len`, every other byte of the buffer as it was, and the length
grows by one (41_deframer.md R96). -/
def Obligations.DataByteIsStored : Prop :=
  ∀ (s : State) (t : Block) (b : Byte), s.insts[s.port]? = some t → t.rxState = .receiving →
    b ≠ 0xA0#8 → b ≠ 0x05#8 → b ≠ 0xF0#8 → t.rxLen < t.params.cap →
    ∃ (m : Memory) (u : Block),
      (∀ a, Memory.read m a = if a = t.rxLen then some b else Memory.read t.rxBuf a) ∧
      completesAs (.rxReceivingData b) s u ∧ completesAs (.rxByte b) s u ∧
      u = { t with rxBuf := m, rxLen := t.rxLen + 1 }

/-- A valid substitution code under capacity stores the byte it stands for, as the row and as RX.BYTE, and returns to
`Receiving` (41_deframer.md section 5, 30_encoding.md R56; the capacity test here is the spec's own choice 92 D7). -/
def Obligations.EscapePairIsStored : Prop :=
  ∀ (s : State) (t : Block), s.insts[s.port]? = some t → t.rxState = .escaped → t.rxLen < t.params.cap →
    ∀ (row : Instr) (code v : Byte),
      (row = .rxEscapedSubStart ∧ code = 0x01#8 ∧ v = 0xA0#8) ∨
      (row = .rxEscapedSubEnd ∧ code = 0x02#8 ∧ v = 0x05#8) ∨
      (row = .rxEscapedSubEscape ∧ code = 0xF0#8 ∧ v = 0xF0#8) →
    ∃ (m : Memory) (u : Block),
      (∀ a, Memory.read m a = if a = t.rxLen then some v else Memory.read t.rxBuf a) ∧
      completesAs row s u ∧ completesAs (.rxByte code) s u ∧
      u = { t with rxBuf := m, rxLen := t.rxLen + 1, rxState := .receiving }

/-- The byte that does not fit drops the frame with a buffer-overflow event and nothing stored: a DATA byte in
`Receiving`, and the decoded byte of a valid pair in `Escaped` (41_deframer.md section 4, 60_exceptions.md section 2;
the spec's own choices 92 D7, D8 and D9). -/
def Obligations.OverflowDropsTheFrame : Prop :=
  ∀ (s : State) (t : Block) (b : Byte), s.insts[s.port]? = some t → t.params.cap ≤ t.rxLen →
    (t.rxState = .receiving ∧ b ≠ 0xA0#8 ∧ b ≠ 0x05#8 ∧ b ≠ 0xF0#8) ∨
    (t.rxState = .escaped ∧ (b = 0x01#8 ∨ b = 0x02#8 ∨ b = 0xF0#8)) →
    ∃ u : Block, completesAs (decodeWire t.rxState b) s u ∧ completesAs (.rxByte b) s u ∧
      u = { t with
        rxLen := 0
        rxState := .idle
        rxEvt := t.rxEvt ++
          [{ src := t.params.instId, kind := .error, err := .bufferOverflow, len := 0, data := [] }] }

/-- Any other byte after an ESCAPE, the two markers included, drops the frame with a bad-escape-sequence event, at any
length (41_deframer.md section 5, whose corner cases the spec derives; event form 92 D8). -/
def Obligations.BadEscapeDropsTheFrame : Prop :=
  ∀ (s : State) (t : Block) (b : Byte), s.insts[s.port]? = some t → t.rxState = .escaped →
    b ≠ 0x01#8 → b ≠ 0x02#8 → b ≠ 0xF0#8 →
    ∃ u : Block, completesAs (.rxEscapedInvalid b) s u ∧ completesAs (.rxByte b) s u ∧
      u = { t with
        rxLen := 0
        rxState := .idle
        rxEvt := t.rxEvt ++
          [{ src := t.params.instId, kind := .error, err := .badEscapeSequence, len := 0, data := [] }] }

/-- RX.BYTE is total: in every state that satisfies the invariant, for every byte, it completes, it is the one row its
state and byte select, it emits at most one event, and it touches neither the CRC engine nor the framer
(41_deframer.md R90). -/
def Obligations.RxByteIsTotal : Prop :=
  ∀ (s : State) (t : Block) (b : Byte), s.insts[s.port]? = some t → t.Inv →
    exec (.rxByte b) s = exec (decodeWire t.rxState b) s ∧
    ∃ u : Block, completesAs (.rxByte b) s u ∧ sameCrcEngine t u ∧ sameFramer t u ∧
      (u.rxEvt = t.rxEvt ∨ ∃ e, u.rxEvt = t.rxEvt ++ [e])

/-- RX.RESET brings the deframer to `Idle` with length 0, its buffer kept, and emits nothing (41_deframer.md section 6,
the spec's own operation 92 D15). -/
def Obligations.RxResetReturnsToIdle : Prop :=
  ∀ (s : State) (t : Block), s.insts[s.port]? = some t →
    completesAs .rxReset s { t with rxState := .idle, rxLen := 0 }

/-- RX.STREAM completes in every state that satisfies the invariant, is RX.BYTE of each byte in order, and returns the
events these emitted, in order (30_encoding.md R60; the returned value is log entry 3, the composite by name log
entry 9). -/
def Obligations.RxStreamIsItsBytes : Prop :=
  ∀ (s : State) (t : Block) (W : List Byte), s.insts[s.port]? = some t → t.Inv →
    ∃ (s' : State) (u : Block) (es : List Event),
      execAll (W.map .rxByte) s = .next s' ∧ s'.insts[s.port]? = some u ∧ u.rxEvt = t.rxEvt ++ es ∧
      completesAs (.rxStream W) s { u with results := t.results ++ [.events es] }

/-- Round trip: an encoded sequence within the capacity, given to a deframer in `Idle` with either value of
`PSTART_FLAG`, makes exactly one event, a FRAME with the sequence as its data, and leaves the deframer in `Idle`
(41_deframer.md R106, derived by the spec; event form 92 D8, copy 92 D9; the composite by name is log entry 9). -/
def Obligations.DecodeOfEncodedFrame : Prop :=
  ∀ (s : State) (t : Block) (D : List Byte), s.insts[s.port]? = some t → t.rxState = .idle →
    D.length ≤ t.params.cap →
    frameDecode t.params (frameEncode D) = some D ∧
    ∃ u : Block, completesAs (.rxStream (frameEncode D)) s u ∧ u.rxState = .idle ∧
      u.rxEvt = t.rxEvt ++
        [{ src := t.params.instId, kind := .frame, err := .none, len := D.length, data := D }]

/-- An encoded sequence longer than the capacity makes exactly one event, a buffer-overflow, and is not decoded
(41_deframer.md R106, last sentence, derived by the spec; that the rest of the frame is discarded in `Idle` without
trace is the spec's own choice 92 D6, the form of the event 92 D8, the test on a decoded byte 92 D7; the composite by
name is log entry 9). -/
def Obligations.OverlongFrameIsDropped : Prop :=
  ∀ (s : State) (t : Block) (D : List Byte), s.insts[s.port]? = some t → t.rxState = .idle →
    t.params.cap < D.length →
    frameDecode t.params (frameEncode D) = none ∧
    ∃ u : Block, completesAs (.rxStream (frameEncode D)) s u ∧ u.rxState = .idle ∧
      u.rxEvt = t.rxEvt ++
        [{ src := t.params.instId, kind := .error, err := .bufferOverflow, len := 0, data := [] }]

/-! ### The framer -/

/-- The wire form of a sequence: start marker, each byte stuffed, end marker; three values become two bytes, every
other byte itself (42_framer.md R124, 30_encoding.md R51). -/
def Obligations.FrameEncodeIsStuffing : Prop :=
  (∀ D : List Byte, frameEncode D = [0xA0#8] ++ (D.map stuff).flatten ++ [0x05#8]) ∧
  stuff 0xA0#8 = [0xF0#8, 0x01#8] ∧ stuff 0x05#8 = [0xF0#8, 0x02#8] ∧ stuff 0xF0#8 = [0xF0#8, 0xF0#8] ∧
  ∀ d : Byte, d ≠ 0xA0#8 → d ≠ 0x05#8 → d ≠ 0xF0#8 → stuff d = [d]

/-- TX.START with no frame open emits the start marker and opens a frame (42_framer.md section 3; the operation and
`tx_state` are the spec's own choice 92 D13). -/
def Obligations.TxStartOpensAFrame : Prop :=
  ∀ (s : State) (t : Block), s.insts[s.port]? = some t → t.txState = .txIdle →
    completesAs .txStart s { t with txOut := t.txOut ++ [0xA0#8], txState := .txOpen }

/-- TX.BYTE with a frame open emits the stuffed form of its byte, as TX.BYTE and as the row the byte selects, and
leaves the frame open (42_framer.md section 3, 30_encoding.md R57; the operation is the spec's own choice 92 D13). -/
def Obligations.TxByteEmitsTheStuffedByte : Prop :=
  ∀ (s : State) (t : Block), s.insts[s.port]? = some t → t.txState = .txOpen →
    ∀ (row : Instr) (d : Byte) (out : List Byte),
      (row = .txByteStartValued ∧ d = 0xA0#8 ∧ out = [0xF0#8, 0x01#8]) ∨
      (row = .txByteEndValued ∧ d = 0x05#8 ∧ out = [0xF0#8, 0x02#8]) ∨
      (row = .txByteEscapeValued ∧ d = 0xF0#8 ∧ out = [0xF0#8, 0xF0#8]) ∨
      (row = .txBytePlain d ∧ d ≠ 0xA0#8 ∧ d ≠ 0x05#8 ∧ d ≠ 0xF0#8 ∧ out = [d]) →
    completesAs (.txByte d) s { t with txOut := t.txOut ++ out } ∧
    completesAs row s { t with txOut := t.txOut ++ out }

/-- TX.END with a frame open emits the end marker and closes the frame (42_framer.md section 3; the operation and
`tx_state` are the spec's own choice 92 D13). -/
def Obligations.TxEndClosesTheFrame : Prop :=
  ∀ (s : State) (t : Block), s.insts[s.port]? = some t → t.txState = .txOpen →
    completesAs .txEnd s { t with txOut := t.txOut ++ [0x05#8], txState := .txIdle }

/-- TX.FRAME with no frame open appends exactly the wire form of its operand, ends with no frame open, and is its
expansion into primitives (42_framer.md R125, derived by the spec; `tx_state` is 92 D13; the composite by name is log
entry 9). -/
def Obligations.TxFrameAppendsTheEncoding : Prop :=
  ∀ (s : State) (t : Block) (D : List Byte), s.insts[s.port]? = some t → t.txState = .txIdle →
    completesAs (.txFrame D) s { t with txOut := t.txOut ++ frameEncode D } ∧
    execAll (.txStart :: D.map .txByte ++ [.txEnd]) s = exec (.txFrame D) s

/-- The wire form's length, and its transparency: the start marker occurs once, first, the end marker once, last,
whatever the sequence holds; between them stands one unit for each byte, a single byte that is none of the three
reserved values or one of the three escape pairs, so that 0xF0 occurs only as the first byte of a pair or as the second
of F0 F0; and two sequences never have the same wire form (42_framer.md R126 and R128, 41_deframer.md R106, derived by
the spec). -/
def Obligations.EncodingLengthAndTransparency : Prop :=
  (∀ D : List Byte, (frameEncode D).length =
    D.length + 2 + D.countP (fun d => d == 0xA0#8 || d == 0x05#8 || d == 0xF0#8)) ∧
  (∀ D : List Byte,
    (frameEncode D).head? = some 0xA0#8 ∧ (frameEncode D).count 0xA0#8 = 1 ∧
    (frameEncode D).getLast? = some 0x05#8 ∧ (frameEncode D).count 0x05#8 = 1) ∧
  (∀ D : List Byte, ∃ units : List (List Byte),
    units.length = D.length ∧ frameEncode D = [0xA0#8] ++ units.flatten ++ [0x05#8] ∧
    ∀ u ∈ units, (∃ b : Byte, u = [b] ∧ b ≠ 0xA0#8 ∧ b ≠ 0x05#8 ∧ b ≠ 0xF0#8) ∨
      u = [0xF0#8, 0x01#8] ∨ u = [0xF0#8, 0x02#8] ∨ u = [0xF0#8, 0xF0#8]) ∧
  ∀ D E : List Byte, frameEncode D = frameEncode E → D = E

/-! ### The frame check sequence -/

/-- FCS.APPEND returns its operand followed by the CRC with seed 0, low byte first, and changes nothing but the CRC
engine (43_fcs.md R136; the history its value is appended to, once and without the read inside the expansion, is the
model's own, log entry 3, and the composite by name log entry 9; `crc_valid` is 92 D12). -/
def Obligations.FcsAppendReturnsPayloadAndCrc : Prop :=
  ∀ (s : State) (t : Block) (P : List Byte), s.insts[s.port]? = some t →
    completesAs (.fcsAppend P) s
      { t with
        crc := compute 0#16 P
        crcValid := true
        results := t.results ++
          [.bytes (P ++ [(compute 0#16 P).extractLsb' 0 8, (compute 0#16 P).extractLsb' 8 8])] }

/-- FCS.CHECK: shorter than 3 is too-short and no CRC is computed; otherwise the CRC over all but the last two bytes
against the word these two form, the last byte high (43_fcs.md section 2, 30_encoding.md R58; that the verdict is a
returned value is the spec's own choice 92 D19; the history it is appended to is the model's own, log entry 3, and the
composite by name log entry 9). -/
def Obligations.FcsCheckComparesTheCrc : Prop :=
  (∀ (s : State) (t : Block) (B : List Byte), s.insts[s.port]? = some t → B.length < 3 →
    completesAs (.fcsCheck B) s { t with results := t.results ++ [.verdict .tooShort] }) ∧
  ∀ (s : State) (t : Block) (P : List Byte) (lo hi : Byte), s.insts[s.port]? = some t → P ≠ [] →
    completesAs (.fcsCheck (P ++ [lo, hi])) s
      { t with
        crc := compute 0#16 P
        crcValid := true
        results := t.results ++ [.verdict (if compute 0#16 P = hi ++ lo then .ok P else .crcMismatch)] }

/-- TX.PACKET with no frame open appends the wire form of the payload and its CRC, low byte first (43_fcs.md R139; the
composite by name is log entry 9, `crc_valid` 92 D12, `tx_state` 92 D13). -/
def Obligations.TxPacketAppendsTheFramedPacket : Prop :=
  ∀ (s : State) (t : Block) (P : List Byte), s.insts[s.port]? = some t → t.txState = .txIdle →
    completesAs (.txPacket P) s
      { t with
        crc := compute 0#16 P
        crcValid := true
        txOut := t.txOut ++
          frameEncode (P ++ [(compute 0#16 P).extractLsb' 0 8, (compute 0#16 P).extractLsb' 8 8]) }

/-- What FCS.APPEND makes of a payload of at least one byte, FCS.CHECK accepts; what it makes of the empty payload is
too short (43_fcs.md R141 items 1 and 2, derived by the spec). FCS.CHECK answers the function `fcsVerdict`: that the
verdict is a returned value is the spec's own choice 92 D19, and the history it is appended to is the model's own, log
entry 3. -/
def Obligations.CheckOfAppendedIsOk : Prop :=
  (∀ P : List Byte, P ≠ [] →
    fcsVerdict (P ++ [(compute 0#16 P).extractLsb' 0 8, (compute 0#16 P).extractLsb' 8 8]) = .ok P) ∧
  fcsVerdict ([] ++ [(compute 0#16 []).extractLsb' 0 8, (compute 0#16 []).extractLsb' 8 8]) = .tooShort ∧
  ∀ (s : State) (t : Block) (B : List Byte), s.insts[s.port]? = some t →
    ∃ u : Block, completesAs (.fcsCheck B) s u ∧ u.results = t.results ++ [.verdict (fcsVerdict B)]

/-- One flipped bit anywhere in the payload of a checked buffer is detected (43_fcs.md R142, derived by the spec with
general knowledge, 93 G4). -/
def Obligations.SingleBitErrorIsDetected : Prop :=
  ∀ (P : List Byte) (i k : Nat) (h : i < P.length), k < 8 →
    fcsVerdict (P.set i (P[i] ^^^ (1#8 <<< k)) ++
      [(compute 0#16 P).extractLsb' 0 8, (compute 0#16 P).extractLsb' 8 8]) = .crcMismatch

/-- End to end: the bytes TX.PACKET sends for a payload of 1 to CAP - 2 bytes, given to any deframer in `Idle`, on this
machine or another, make exactly one event, a FRAME of two bytes more, whose check is ok with the payload, and whose
ReceiveError is none (43_fcs.md R141 item 3, derived by the spec; the composites by name are log entry 9). -/
def Obligations.PacketArrivesEndToEnd : Prop :=
  ∀ (s : State) (t : Block) (P : List Byte), s.insts[s.port]? = some t → t.txState = .txIdle → P ≠ [] →
    ∃ (u : Block) (wire : List Byte), completesAs (.txPacket P) s u ∧ u.txOut = t.txOut ++ wire ∧
      ∀ (r : State) (v : Block), r.insts[r.port]? = some v → v.rxState = .idle → P.length + 2 ≤ v.params.cap →
        ∃ (w : Block) (e : Event), completesAs (.rxStream wire) r w ∧ w.rxEvt = v.rxEvt ++ [e] ∧
          e.kind = .frame ∧ e.len = P.length + 2 ∧ fcsVerdict e.data = .ok P ∧ e.receiveError = .none

/-- The ReceiveError the consumer obtains: an ERROR event's own, a FRAME event's by the verdict on its data
(43_fcs.md R140). -/
def Obligations.ReceiveErrorOfAnEvent : Prop :=
  ∀ e : Event,
    (e.kind = .error → e.receiveError = e.err) ∧
    (e.kind = .frame →
      (fcsVerdict e.data = .tooShort → e.receiveError = .invalidPacketTooShort) ∧
      (fcsVerdict e.data = .crcMismatch → e.receiveError = .crcMismatch) ∧
      ∀ P, fcsVerdict e.data = .ok P → e.receiveError = .none)

/-- The numbers of the ReceiveError values and of the states (60_exceptions.md R150, 10_state.md R15 and R20: the
spec's own choice 92 D10). -/
def Obligations.CodesOfErrorsAndStates : Prop :=
  [ReceiveError.none, .prematureStart, .bufferOverflow, .badEscapeSequence, .crcMismatch,
    .invalidPacketTooShort].map ReceiveError.code = [0, 1, 2, 3, 4, 5] ∧
  [RxState.idle, .receiving, .escaped].map rxStateCode = [0, 1, 2] ∧
  [TxState.txIdle, .txOpen].map txStateCode = [0, 1]

/-! ### Invariants and isolation -/

/-- Every step keeps the invariant: the length within the capacity, the buffer canonical and within the capacity, every
byte below the length stored, every copy under its own number (10_state.md R22; 20_memory.md R30). -/
def Obligations.StepKeepsTheInvariant : Prop :=
  ∀ s s' : State, s.Inv → step s = .next s' → s'.Inv

/-- Reset satisfies the invariants: the state invariant, events well formed, whole frames sent (10_state.md R22, R23). -/
def Obligations.ResetSatisfiesTheInvariants : Prop :=
  State.reset.Inv ∧
  (∀ (k : Nat) (t : Block), State.reset.insts[k]? = some t → (∀ e ∈ t.rxEvt, e.wf t.params) ∧ t.sendsFrames)

/-- Every step keeps all emitted events well formed: stamped with the copy's identity, a FRAME with no error and as many
bytes as its length, at most CAP, an ERROR one of the deframer's three and empty (10_state.md R18, event form 92 D8). -/
def Obligations.StepKeepsEventsWellFormed : Prop :=
  ∀ s s' : State, s.Inv → (∀ t ∈ s.insts, ∀ e ∈ t.rxEvt, e.wf t.params) → step s = .next s' →
    ∀ t ∈ s'.insts, ∀ e ∈ t.rxEvt, e.wf t.params

/-- Every step keeps it true that each framer has sent whole frames, and behind them at most the beginning of one more
(42_framer.md section 3, the spec's own choice 92 D13: every frame emitted equals some `encode(D)`). Across a RESET with
a frame open it holds only because the model lets a RESET empty `txOut`, log entry 7: on the wire the truncated frame
stays (42_framer.md R123, 70 R170). -/
def Obligations.StepKeepsWholeFramesSent : Prop :=
  ∀ s s' : State, (∀ t ∈ s.insts, t.sendsFrames) → step s = .next s' → ∀ t ∈ s'.insts, t.sendsFrames

/-- No step changes the parameters or the number of the copies, RESET included (70 R172 item 1; 00_scope.md R4). -/
def Obligations.ParametersNeverChange : Prop :=
  ∀ s s' : State, step s = .next s' → s'.insts.map (fun t => t.params) = s.insts.map (fun t => t.params)

/-- But for RESET no step takes back an event or a byte, and a seeded engine stays seeded (10_state.md R18, R19, R22
item 4; 20_memory.md R42; what RESET does is log entry 7). -/
def Obligations.StreamsOnlyGrow : Prop :=
  ∀ (s s' : State) (k : Nat) (t : Block), s.input.head? ≠ some .reset → step s = .next s' → s.insts[k]? = some t →
    ∃ u : Block, s'.insts[k]? = some u ∧ (∃ es, u.rxEvt = t.rxEvt ++ es) ∧ (∃ bs, u.txOut = t.txOut ++ bs) ∧
      (t.crcValid = true → u.crcValid = true)

/-- An operation changes nothing but the addressed copy (10_state.md section 10: instances share nothing). -/
def Obligations.OperationLeavesOtherCopies : Prop :=
  ∀ (i : Instr) (s s' : State), exec i s = .next s' → othersSame s s'

/-- The three units of a copy do not touch each other: a CRC operation leaves deframer and framer, a deframer operation
leaves CRC engine and framer, a framer operation leaves CRC engine and deframer (10_state.md R10, column "written by";
40_crc.md R70 to R72 and R79, 43_fcs.md R136 and R137; 41_deframer.md R90, R100 and R106, 60_exceptions.md R153;
42_framer.md R120 to R122 and R125; the composites by name are log entry 9). -/
def Obligations.UnitsDoNotTouchEachOther : Prop :=
  ∀ (i : Instr) (s s' : State) (t u : Block), exec i s = .next s' →
    s.insts[s.port]? = some t → s'.insts[s.port]? = some u →
    (i.drivesCrcOnly = true → sameDeframer t u ∧ sameFramer t u) ∧
    (i.drivesDeframerOnly = true → sameCrcEngine t u ∧ sameFramer t u) ∧
    (i.drivesFramerOnly = true → sameCrcEngine t u ∧ sameDeframer t u)

/-- Operations of different copies commute: in either order they end in the same copies (20_memory.md section 4 and
10_state.md section 10: the interleaving affects nothing inside the block). -/
def Obligations.DifferentCopiesCommute : Prop :=
  ∀ (s s₁ s₂ : State) (p q : Nat) (i j : Instr), p ≠ q →
    execAt p i s = .next s₁ → execAt q j s₁ = .next s₂ →
    ∃ r₁ r₂ : State, execAt q j s = .next r₁ ∧ execAt p i r₁ = .next r₂ ∧ r₂.insts = s₂.insts
end

