-- ==== Sys2Proof/Laws/State.lean ====
section
/-! SUPPORT. Each field of a copy after each update, and of the machine after each of its updates: all by rfl. -/

namespace Sys2Proof.Machine

/-! ### seedCrc -/

@[simp] theorem Block.seedCrc_params (t : Block) (s : Word16) : (t.seedCrc s).params = t.params := rfl
@[simp] theorem Block.seedCrc_crc (t : Block) (s : Word16) : (t.seedCrc s).crc = s := rfl
@[simp] theorem Block.seedCrc_crcValid (t : Block) (s : Word16) : (t.seedCrc s).crcValid = true := rfl
@[simp] theorem Block.seedCrc_rxState (t : Block) (s : Word16) : (t.seedCrc s).rxState = t.rxState := rfl
@[simp] theorem Block.seedCrc_rxLen (t : Block) (s : Word16) : (t.seedCrc s).rxLen = t.rxLen := rfl
@[simp] theorem Block.seedCrc_rxBuf (t : Block) (s : Word16) : (t.seedCrc s).rxBuf = t.rxBuf := rfl
@[simp] theorem Block.seedCrc_txState (t : Block) (s : Word16) : (t.seedCrc s).txState = t.txState := rfl
@[simp] theorem Block.seedCrc_rxEvt (t : Block) (s : Word16) : (t.seedCrc s).rxEvt = t.rxEvt := rfl
@[simp] theorem Block.seedCrc_txOut (t : Block) (s : Word16) : (t.seedCrc s).txOut = t.txOut := rfl
@[simp] theorem Block.seedCrc_results (t : Block) (s : Word16) : (t.seedCrc s).results = t.results := rfl

/-! ### setCrc -/

@[simp] theorem Block.setCrc_params (t : Block) (c : Word16) : (t.setCrc c).params = t.params := rfl
@[simp] theorem Block.setCrc_crc (t : Block) (c : Word16) : (t.setCrc c).crc = c := rfl
@[simp] theorem Block.setCrc_crcValid (t : Block) (c : Word16) : (t.setCrc c).crcValid = t.crcValid := rfl
@[simp] theorem Block.setCrc_rxState (t : Block) (c : Word16) : (t.setCrc c).rxState = t.rxState := rfl
@[simp] theorem Block.setCrc_rxLen (t : Block) (c : Word16) : (t.setCrc c).rxLen = t.rxLen := rfl
@[simp] theorem Block.setCrc_rxBuf (t : Block) (c : Word16) : (t.setCrc c).rxBuf = t.rxBuf := rfl
@[simp] theorem Block.setCrc_txState (t : Block) (c : Word16) : (t.setCrc c).txState = t.txState := rfl
@[simp] theorem Block.setCrc_rxEvt (t : Block) (c : Word16) : (t.setCrc c).rxEvt = t.rxEvt := rfl
@[simp] theorem Block.setCrc_txOut (t : Block) (c : Word16) : (t.setCrc c).txOut = t.txOut := rfl
@[simp] theorem Block.setCrc_results (t : Block) (c : Word16) : (t.setCrc c).results = t.results := rfl

/-! ### setRxState -/

@[simp] theorem Block.setRxState_params (t : Block) (st : RxState) : (t.setRxState st).params = t.params := rfl
@[simp] theorem Block.setRxState_crc (t : Block) (st : RxState) : (t.setRxState st).crc = t.crc := rfl
@[simp] theorem Block.setRxState_crcValid (t : Block) (st : RxState) : (t.setRxState st).crcValid = t.crcValid := rfl
@[simp] theorem Block.setRxState_rxState (t : Block) (st : RxState) : (t.setRxState st).rxState = st := rfl
@[simp] theorem Block.setRxState_rxLen (t : Block) (st : RxState) : (t.setRxState st).rxLen = t.rxLen := rfl
@[simp] theorem Block.setRxState_rxBuf (t : Block) (st : RxState) : (t.setRxState st).rxBuf = t.rxBuf := rfl
@[simp] theorem Block.setRxState_txState (t : Block) (st : RxState) : (t.setRxState st).txState = t.txState := rfl
@[simp] theorem Block.setRxState_rxEvt (t : Block) (st : RxState) : (t.setRxState st).rxEvt = t.rxEvt := rfl
@[simp] theorem Block.setRxState_txOut (t : Block) (st : RxState) : (t.setRxState st).txOut = t.txOut := rfl
@[simp] theorem Block.setRxState_results (t : Block) (st : RxState) : (t.setRxState st).results = t.results := rfl

/-! ### setRxLen -/

@[simp] theorem Block.setRxLen_params (t : Block) (n : Nat) : (t.setRxLen n).params = t.params := rfl
@[simp] theorem Block.setRxLen_crc (t : Block) (n : Nat) : (t.setRxLen n).crc = t.crc := rfl
@[simp] theorem Block.setRxLen_crcValid (t : Block) (n : Nat) : (t.setRxLen n).crcValid = t.crcValid := rfl
@[simp] theorem Block.setRxLen_rxState (t : Block) (n : Nat) : (t.setRxLen n).rxState = t.rxState := rfl
@[simp] theorem Block.setRxLen_rxLen (t : Block) (n : Nat) : (t.setRxLen n).rxLen = n := rfl
@[simp] theorem Block.setRxLen_rxBuf (t : Block) (n : Nat) : (t.setRxLen n).rxBuf = t.rxBuf := rfl
@[simp] theorem Block.setRxLen_txState (t : Block) (n : Nat) : (t.setRxLen n).txState = t.txState := rfl
@[simp] theorem Block.setRxLen_rxEvt (t : Block) (n : Nat) : (t.setRxLen n).rxEvt = t.rxEvt := rfl
@[simp] theorem Block.setRxLen_txOut (t : Block) (n : Nat) : (t.setRxLen n).txOut = t.txOut := rfl
@[simp] theorem Block.setRxLen_results (t : Block) (n : Nat) : (t.setRxLen n).results = t.results := rfl

/-! ### store -/

@[simp] theorem Block.store_params (t : Block) (a : Nat) (v : Byte) : (t.store a v).params = t.params := rfl
@[simp] theorem Block.store_crc (t : Block) (a : Nat) (v : Byte) : (t.store a v).crc = t.crc := rfl
@[simp] theorem Block.store_crcValid (t : Block) (a : Nat) (v : Byte) : (t.store a v).crcValid = t.crcValid := rfl
@[simp] theorem Block.store_rxState (t : Block) (a : Nat) (v : Byte) : (t.store a v).rxState = t.rxState := rfl
@[simp] theorem Block.store_rxLen (t : Block) (a : Nat) (v : Byte) : (t.store a v).rxLen = t.rxLen := rfl
@[simp] theorem Block.store_rxBuf (t : Block) (a : Nat) (v : Byte) : (t.store a v).rxBuf = Memory.write t.rxBuf a v := rfl
@[simp] theorem Block.store_txState (t : Block) (a : Nat) (v : Byte) : (t.store a v).txState = t.txState := rfl
@[simp] theorem Block.store_rxEvt (t : Block) (a : Nat) (v : Byte) : (t.store a v).rxEvt = t.rxEvt := rfl
@[simp] theorem Block.store_txOut (t : Block) (a : Nat) (v : Byte) : (t.store a v).txOut = t.txOut := rfl
@[simp] theorem Block.store_results (t : Block) (a : Nat) (v : Byte) : (t.store a v).results = t.results := rfl

/-! ### setTxState -/

@[simp] theorem Block.setTxState_params (t : Block) (st : TxState) : (t.setTxState st).params = t.params := rfl
@[simp] theorem Block.setTxState_crc (t : Block) (st : TxState) : (t.setTxState st).crc = t.crc := rfl
@[simp] theorem Block.setTxState_crcValid (t : Block) (st : TxState) : (t.setTxState st).crcValid = t.crcValid := rfl
@[simp] theorem Block.setTxState_rxState (t : Block) (st : TxState) : (t.setTxState st).rxState = t.rxState := rfl
@[simp] theorem Block.setTxState_rxLen (t : Block) (st : TxState) : (t.setTxState st).rxLen = t.rxLen := rfl
@[simp] theorem Block.setTxState_rxBuf (t : Block) (st : TxState) : (t.setTxState st).rxBuf = t.rxBuf := rfl
@[simp] theorem Block.setTxState_txState (t : Block) (st : TxState) : (t.setTxState st).txState = st := rfl
@[simp] theorem Block.setTxState_rxEvt (t : Block) (st : TxState) : (t.setTxState st).rxEvt = t.rxEvt := rfl
@[simp] theorem Block.setTxState_txOut (t : Block) (st : TxState) : (t.setTxState st).txOut = t.txOut := rfl
@[simp] theorem Block.setTxState_results (t : Block) (st : TxState) : (t.setTxState st).results = t.results := rfl

/-! ### emitRx -/

@[simp] theorem Block.emitRx_params (t : Block) (e : Event) : (t.emitRx e).params = t.params := rfl
@[simp] theorem Block.emitRx_crc (t : Block) (e : Event) : (t.emitRx e).crc = t.crc := rfl
@[simp] theorem Block.emitRx_crcValid (t : Block) (e : Event) : (t.emitRx e).crcValid = t.crcValid := rfl
@[simp] theorem Block.emitRx_rxState (t : Block) (e : Event) : (t.emitRx e).rxState = t.rxState := rfl
@[simp] theorem Block.emitRx_rxLen (t : Block) (e : Event) : (t.emitRx e).rxLen = t.rxLen := rfl
@[simp] theorem Block.emitRx_rxBuf (t : Block) (e : Event) : (t.emitRx e).rxBuf = t.rxBuf := rfl
@[simp] theorem Block.emitRx_txState (t : Block) (e : Event) : (t.emitRx e).txState = t.txState := rfl
@[simp] theorem Block.emitRx_rxEvt (t : Block) (e : Event) : (t.emitRx e).rxEvt = t.rxEvt ++ [e] := rfl
@[simp] theorem Block.emitRx_txOut (t : Block) (e : Event) : (t.emitRx e).txOut = t.txOut := rfl
@[simp] theorem Block.emitRx_results (t : Block) (e : Event) : (t.emitRx e).results = t.results := rfl

/-! ### emitTx -/

@[simp] theorem Block.emitTx_params (t : Block) (b : Byte) : (t.emitTx b).params = t.params := rfl
@[simp] theorem Block.emitTx_crc (t : Block) (b : Byte) : (t.emitTx b).crc = t.crc := rfl
@[simp] theorem Block.emitTx_crcValid (t : Block) (b : Byte) : (t.emitTx b).crcValid = t.crcValid := rfl
@[simp] theorem Block.emitTx_rxState (t : Block) (b : Byte) : (t.emitTx b).rxState = t.rxState := rfl
@[simp] theorem Block.emitTx_rxLen (t : Block) (b : Byte) : (t.emitTx b).rxLen = t.rxLen := rfl
@[simp] theorem Block.emitTx_rxBuf (t : Block) (b : Byte) : (t.emitTx b).rxBuf = t.rxBuf := rfl
@[simp] theorem Block.emitTx_txState (t : Block) (b : Byte) : (t.emitTx b).txState = t.txState := rfl
@[simp] theorem Block.emitTx_rxEvt (t : Block) (b : Byte) : (t.emitTx b).rxEvt = t.rxEvt := rfl
@[simp] theorem Block.emitTx_txOut (t : Block) (b : Byte) : (t.emitTx b).txOut = t.txOut ++ [b] := rfl
@[simp] theorem Block.emitTx_results (t : Block) (b : Byte) : (t.emitTx b).results = t.results := rfl

/-! ### returns -/

@[simp] theorem Block.returns_params (t : Block) (r : Result) : (t.returns r).params = t.params := rfl
@[simp] theorem Block.returns_crc (t : Block) (r : Result) : (t.returns r).crc = t.crc := rfl
@[simp] theorem Block.returns_crcValid (t : Block) (r : Result) : (t.returns r).crcValid = t.crcValid := rfl
@[simp] theorem Block.returns_rxState (t : Block) (r : Result) : (t.returns r).rxState = t.rxState := rfl
@[simp] theorem Block.returns_rxLen (t : Block) (r : Result) : (t.returns r).rxLen = t.rxLen := rfl
@[simp] theorem Block.returns_rxBuf (t : Block) (r : Result) : (t.returns r).rxBuf = t.rxBuf := rfl
@[simp] theorem Block.returns_txState (t : Block) (r : Result) : (t.returns r).txState = t.txState := rfl
@[simp] theorem Block.returns_rxEvt (t : Block) (r : Result) : (t.returns r).rxEvt = t.rxEvt := rfl
@[simp] theorem Block.returns_txOut (t : Block) (r : Result) : (t.returns r).txOut = t.txOut := rfl
@[simp] theorem Block.returns_results (t : Block) (r : Result) : (t.returns r).results = t.results ++ [r] := rfl

/-! ### The machine -/

@[simp] theorem State.withInst_insts (s : State) (t : Block) : (s.withInst t).insts = s.insts.set s.port t := rfl
@[simp] theorem State.withInst_port (s : State) (t : Block) : (s.withInst t).port = s.port := rfl
@[simp] theorem State.withInst_input (s : State) (t : Block) : (s.withInst t).input = s.input := rfl

@[simp] theorem State.withInput_insts (s : State) (l : List Input) : (s.withInput l).insts = s.insts := rfl
@[simp] theorem State.withInput_port (s : State) (l : List Input) : (s.withInput l).port = s.port := rfl
@[simp] theorem State.withInput_input (s : State) (l : List Input) : (s.withInput l).input = l := rfl

@[simp] theorem State.atPort_insts (s : State) (p : Nat) : (s.atPort p).insts = s.insts := rfl
@[simp] theorem State.atPort_port (s : State) (p : Nat) : (s.atPort p).port = p := rfl
@[simp] theorem State.atPort_input (s : State) (p : Nat) : (s.atPort p).input = s.input := rfl

@[simp] theorem State.resetEvent_insts (s : State) : (s.resetEvent).insts = s.insts.map fun t => Block.reset t.params := rfl
@[simp] theorem State.resetEvent_port (s : State) : (s.resetEvent).port = 0 := rfl
@[simp] theorem State.resetEvent_input (s : State) : (s.resetEvent).input = s.input := rfl

/-! ### Reset -/

@[simp] theorem Block.reset_params (p : Params) : (Block.reset p).params = p := rfl
@[simp] theorem Block.reset_crc (p : Params) : (Block.reset p).crc = Config.crcAtReset p.instId := rfl
@[simp] theorem Block.reset_crcValid (p : Params) : (Block.reset p).crcValid = false := rfl
@[simp] theorem Block.reset_rxState (p : Params) : (Block.reset p).rxState = .idle := rfl
@[simp] theorem Block.reset_rxLen (p : Params) : (Block.reset p).rxLen = 0 := rfl
@[simp] theorem Block.reset_rxBuf (p : Params) : (Block.reset p).rxBuf = [] := rfl
@[simp] theorem Block.reset_txState (p : Params) : (Block.reset p).txState = .txIdle := rfl
@[simp] theorem Block.reset_rxEvt (p : Params) : (Block.reset p).rxEvt = [] := rfl
@[simp] theorem Block.reset_txOut (p : Params) : (Block.reset p).txOut = [] := rfl
@[simp] theorem Block.reset_results (p : Params) : (Block.reset p).results = [] := rfl

end Sys2Proof.Machine
end

