-- ==== Sys2Proof/Laws/Memory.lean ====
section
/-! SUPPORT. The assembly buffer: read after write, the canonical form, the copy taken at END. -/

namespace Sys2Proof.Machine

@[simp] theorem Memory.read_nil (a : Nat) : Memory.read [] a = none := rfl

@[simp] theorem Memory.read_write_same (m : Memory) (a : Nat) (v : Byte) :
    Memory.read (Memory.write m a v) a = some v := by
  induction m with
  | nil => simp [Memory.write, Memory.read]
  | cons c rest ih =>
    obtain ⟨b, u⟩ := c
    simp only [Memory.write]
    split
    · simp [Memory.read]
    · split
      · simp [Memory.read]
      · rename_i h; simp [Memory.read, h, ih]

theorem Memory.read_write_other (m : Memory) {a a' : Nat} (v : Byte) (h : a' ≠ a) :
    Memory.read (Memory.write m a v) a' = Memory.read m a' := by
  induction m with
  | nil => simp [Memory.write, Memory.read, h, Memory.unlisted]
  | cons c rest ih =>
    obtain ⟨b, u⟩ := c
    simp only [Memory.write]
    split
    · simp [Memory.read, h]
    · split
      · rename_i hab; subst hab; simp [Memory.read, h]
      · simp [Memory.read, ih]

theorem Memory.read_write (m : Memory) (a a' : Nat) (v : Byte) :
    Memory.read (Memory.write m a v) a' = if a' = a then some v else Memory.read m a' := by
  split
  · rename_i h; subst h; simp
  · rename_i h; exact Memory.read_write_other m v h

theorem Memory.write_risingFrom (m : Memory) (k a : Nat) (v : Byte) (hk : k ≤ a)
    (h : Memory.risingFrom k m = true) : Memory.risingFrom k (Memory.write m a v) = true := by
  induction m generalizing k with
  | nil => simp [Memory.write, Memory.risingFrom, hk]
  | cons c rest ih =>
    obtain ⟨b, u⟩ := c
    simp only [Memory.risingFrom, Bool.and_eq_true, decide_eq_true_eq] at h
    obtain ⟨hkb, hrest⟩ := h
    simp only [Memory.write]
    split
    · rename_i hab
      simp only [Memory.risingFrom, Bool.and_eq_true, decide_eq_true_eq]
      exact ⟨hk, hab, hrest⟩
    · split
      · rename_i hab
        subst hab
        simp only [Memory.risingFrom, Bool.and_eq_true, decide_eq_true_eq]
        exact ⟨hk, hrest⟩
      · simp only [Memory.risingFrom, Bool.and_eq_true, decide_eq_true_eq]
        exact ⟨hkb, ih (b + 1) (by omega) hrest⟩

/-- The one operation that changes the buffer keeps its canonical form. -/
theorem Memory.write_wf (m : Memory) (a : Nat) (v : Byte) (h : Memory.wf m = true) :
    Memory.wf (Memory.write m a v) = true :=
  Memory.write_risingFrom m 0 a v (Nat.zero_le a) h

theorem Memory.reset_wf (p : Params) : Memory.wf (Block.reset p).rxBuf = true := rfl

@[simp] theorem Memory.copyFirst_zero (m : Memory) : Memory.copyFirst m 0 = some [] := rfl

/-- All the copy taken at END can be: it exists exactly when every byte has been stored. -/
theorem Memory.copyFirst_isSome (m : Memory) (n : Nat)
    (h : ∀ a, a < n → (Memory.read m a).isSome = true) : ∃ l, Memory.copyFirst m n = some l := by
  induction n with
  | zero => exact ⟨[], rfl⟩
  | succ n ih =>
    obtain ⟨l, hl⟩ := ih fun a ha => h a (by omega)
    obtain ⟨v, hv⟩ := Option.isSome_iff_exists.mp (h n (by omega))
    exact ⟨l ++ [v], by simp [Memory.copyFirst, hl, hv]⟩

theorem Memory.copyFirst_succ {m : Memory} {n : Nat} {l : List Byte} {v : Byte}
    (hl : Memory.copyFirst m n = some l) (hv : Memory.read m n = some v) :
    Memory.copyFirst m (n + 1) = some (l ++ [v]) := by
  simp [Memory.copyFirst, hl, hv]

/-- What the copy holds: as many bytes as asked, each the byte of the buffer at its index. -/
theorem Memory.copyFirst_spec {m : Memory} {n : Nat} {l : List Byte}
    (h : Memory.copyFirst m n = some l) :
    l.length = n ∧ ∀ a, a < n → Memory.read m a = l[a]? := by
  induction n generalizing l with
  | zero =>
    simp only [Memory.copyFirst, Option.some.injEq] at h
    subst h
    exact ⟨rfl, fun a ha => absurd ha (Nat.not_lt_zero a)⟩
  | succ n ih =>
    simp only [Memory.copyFirst] at h
    split at h
    · rename_i l' v hl' hv
      obtain ⟨hlen, hget⟩ := ih hl'
      simp only [Option.some.injEq] at h
      subst h
      refine ⟨by simp [hlen], fun a ha => ?_⟩
      rcases Nat.lt_succ_iff_lt_or_eq.mp ha with hlt | heq
      · rw [hget a hlt, List.getElem?_append_left (by omega)]
      · subst heq; rw [hv]; simp [← hlen]
    · exact absurd h (by simp)

/-- A store at or above `n` does not change the copy of the first `n` bytes. -/
theorem Memory.copyFirst_write (m : Memory) (n a : Nat) (v : Byte) (h : n ≤ a) :
    Memory.copyFirst (Memory.write m a v) n = Memory.copyFirst m n := by
  induction n with
  | zero => rfl
  | succ n ih => simp [Memory.copyFirst, ih (by omega), Memory.read_write_other m v (show n ≠ a by omega)]

end Sys2Proof.Machine
end

