-- ==== Sys2Proof/Laws/Ops.lean ====
section
/-! SUPPORT. What the shared operations can do: sequencing, the addressed copy, the raising of an error. -/

namespace Sys2Proof.Machine

@[simp] theorem andThen_next {α β : Type} (a : α) (f : α → Out β) : andThen (.next a) f = f a := rfl

@[simp] theorem andThen_fault {α β : Type} (r : Fault) (f : α → Out β) :
    andThen (.fault r : Out α) f = .fault r := rfl

@[simp] theorem andThen_refused {α β : Type} (r : Refusal) (f : α → Out β) :
    andThen (.refused r : Out α) f = .refused r := rfl

/-- A sequence answers a next state only through one of its first part. -/
theorem andThen_eq_next {α β : Type} {o : Out α} {f : α → Out β} {b : β} :
    andThen o f = .next b ↔ ∃ a, o = .next a ∧ f a = .next b := by
  cases o <;> simp [andThen]

theorem andThen_assoc {α β γ : Type} (o : Out α) (f : α → Out β) (g : β → Out γ) :
    andThen (andThen o f) g = andThen o fun a => andThen (f a) g := by
  cases o <;> rfl

@[simp] theorem andThen_self {α : Type} (o : Out α) : andThen o (fun a => .next a) = o := by
  cases o <;> rfl

@[simp] theorem runEach_nil (f : Byte → Block → Out Block) (t : Block) : runEach f [] t = .next t := rfl

@[simp] theorem runEach_cons (f : Byte → Block → Out Block) (d : Byte) (D : List Byte) (t : Block) :
    runEach f (d :: D) t = andThen (f d t) (runEach f D) := rfl

theorem runEach_append (f : Byte → Block → Out Block) (D E : List Byte) (t : Block) :
    runEach f (D ++ E) t = andThen (runEach f D t) (runEach f E) := by
  induction D generalizing t with
  | nil => rfl
  | cons d D ih => simp only [List.cons_append, runEach_cons, andThen_assoc]; congr 1; funext u; exact ih u

/-- A property every byte keeps is kept by the whole sequence. -/
theorem runEach_keeps {f : Byte → Block → Out Block} {P : Block → Prop}
    (hf : ∀ d t u, P t → f d t = .next u → P u) {D : List Byte} {t u : Block}
    (ht : P t) (h : runEach f D t = .next u) : P u := by
  induction D generalizing t with
  | nil => simp only [runEach_nil, Host.Outcome.next.injEq] at h; exact h ▸ ht
  | cons d D ih =>
    obtain ⟨v, hv, hu⟩ := andThen_eq_next.mp h
    exact ih (hf d t v ht hv) hu

/-- An operation at a port that has a copy is `f` on that copy. -/
theorem State.onPort_of {s : State} {t : Block} (h : s.insts[s.port]? = some t) (f : Block → Out Block) :
    s.onPort f = andThen (f t) fun u => .next (s.withInst u) := by
  simp [State.onPort, h]

/-- An operation at a port that has no copy faults. -/
theorem State.onPort_none {s : State} (h : s.insts[s.port]? = none) (f : Block → Out Block) :
    s.onPort f = .fault .noSuchInstance := by
  simp [State.onPort, h]

/-- All an operation on the addressed copy can do when it answers a next state. -/
theorem State.onPort_eq_next {s s' : State} {f : Block → Out Block} :
    s.onPort f = .next s' ↔
      ∃ t u, s.insts[s.port]? = some t ∧ f t = .next u ∧ s' = s.withInst u := by
  constructor
  · intro h
    cases hp : s.insts[s.port]? with
    | none => rw [State.onPort_none hp] at h; exact absurd h (by simp)
    | some t =>
      rw [State.onPort_of hp] at h
      obtain ⟨u, hu, hs⟩ := andThen_eq_next.mp h
      exact ⟨t, u, rfl, hu, by simpa using hs.symm⟩
  · rintro ⟨t, u, ht, hu, rfl⟩
    rw [State.onPort_of ht, hu]; rfl

theorem State.lt_of_getElem? {s : State} {t : Block} (h : s.insts[s.port]? = some t) :
    s.port < s.insts.length := (List.getElem?_eq_some_iff.mp h).1

/-- The addressed copy after it has been replaced. -/
theorem State.withInst_same {s : State} {t : Block} (h : s.insts[s.port]? = some t) (u : Block) :
    (s.withInst u).insts[s.port]? = some u := by
  simp [List.getElem?_set_self (State.lt_of_getElem? h)]

/-- Every other copy after the addressed one has been replaced. -/
theorem State.withInst_other (s : State) (u : Block) {k : Nat} (h : k ≠ s.port) :
    (s.withInst u).insts[k]? = s.insts[k]? := by
  simp [List.getElem?_set_ne (Ne.symm h)]

/-- Replacing the addressed copy by itself changes nothing. -/
theorem State.withInst_self {s : State} {t : Block} (h : s.insts[s.port]? = some t) : s.withInst t = s := by
  obtain ⟨hlt, rfl⟩ := List.getElem?_eq_some_iff.mp h
  cases s
  simp [State.withInst]

/-! ### Raising a receive error (60_exceptions.md R153) -/

theorem Block.raiseRxError_overflow (t : Block) :
    t.raiseRxError .bufferOverflow =
      { t with rxEvt := t.rxEvt ++ [t.errorEvent .bufferOverflow], rxLen := 0, rxState := .idle } := rfl

theorem Block.raiseRxError_badEscape (t : Block) :
    t.raiseRxError .badEscapeSequence =
      { t with rxEvt := t.rxEvt ++ [t.errorEvent .badEscapeSequence], rxLen := 0, rxState := .idle } := rfl

theorem Block.raiseRxError_premature (t : Block) :
    t.raiseRxError .prematureStart =
      { t with rxEvt := t.rxEvt ++ [t.errorEvent .prematureStart], rxLen := 0 } := rfl

end Sys2Proof.Machine
end

