-- ==== Sys2Proof/Laws/Exec.lean ====
section
/-! SUPPORT. Every operation that has a port is an operation on the addressed copy alone: said once, by constructor. -/

namespace Sys2Proof.Machine

/-- What an operation does to the addressed copy. -/
def Block.meaning : Instr → Block → Out Block
  | .crcInit v, t => .next (t.seedCrc v)
  | .crcByte d, t => t.crcByte d
  | .crcRead, t => andThen t.crcValue fun c => .next (t.returns (.word c))
  | .rxReset, t => .next ((t.setRxState .idle).setRxLen 0)
  | .rxByte b, t => t.rxByte b
  | .txStart, t => t.txStart
  | .txByte d, t => t.txByte d
  | .txEnd, t => t.txEnd
  | .reserved _, _ => .refused .reservedCommand
  | .rxIdleStart, t => t.inRxRow .idle true (.next t.beginFrame)
  | .rxIdleOther b, t => t.inRxRow .idle (b != startByte) (.next t)
  | .rxReceivingStart, t => t.inRxRow .receiving true (.next t.prematureStart)
  | .rxReceivingEnd, t => t.inRxRow .receiving true t.completeFrame
  | .rxReceivingEscape, t => t.inRxRow .receiving true (.next t.openEscape)
  | .rxReceivingData b, t => t.inRxRow .receiving (!isReservedByte b) (.next (t.append b))
  | .rxEscapedSubStart, t => t.inRxRow .escaped true (.next (t.append startByte))
  | .rxEscapedSubEnd, t => t.inRxRow .escaped true (.next (t.append endByte))
  | .rxEscapedSubEscape, t => t.inRxRow .escaped true (.next (t.append escapeByte))
  | .rxEscapedInvalid b, t => t.inRxRow .escaped (!isSubCode b) (.next t.badEscape)
  | .txByteStartValued, t => t.inTxRow true (.next (t.emitPair subStart))
  | .txByteEndValued, t => t.inTxRow true (.next (t.emitPair subEnd))
  | .txByteEscapeValued, t => t.inTxRow true (.next (t.emitPair subEscape))
  | .txBytePlain d, t => t.inTxRow (!isReservedByte d) (.next (t.emitTx d))
  | .crcCompute v D, t => andThen (t.crcCompute v D) fun r => .next (r.1.returns (.word r.2))
  | .txFrame D, t => t.txFrame D
  | .fcsAppend P, t => andThen (t.fcsAppend P) fun r => .next (r.1.returns (.bytes r.2))
  | .fcsCheck B, t => andThen (t.fcsCheck B) fun r => .next (r.1.returns (.verdict r.2))
  | .txPacket P, t => t.txPacket P
  | .rxStream W, t => andThen (t.rxStream W) fun t' =>
      .next (t'.returns (.events (t'.rxEvt.drop t.rxEvt.length)))

/-- Every operation but a reserved word acts on the addressed copy alone. -/
theorem exec_eq_onPort (i : Instr) (s : State) (h : ∀ w, i ≠ .reserved w) :
    exec i s = s.onPort (Block.meaning i) := by
  cases i <;> first | rfl | exact absurd rfl (h _)

@[simp] theorem exec_reserved (w : Cmd) (s : State) : exec (.reserved w) s = .refused .reservedCommand := rfl

/-- All an operation can do when it answers a next state: it replaces the addressed copy. -/
theorem exec_eq_next {i : Instr} {s s' : State} (h : exec i s = .next s') :
    ∃ t u, s.insts[s.port]? = some t ∧ Block.meaning i t = .next u ∧ s' = s.withInst u := by
  by_cases hi : ∃ w, i = .reserved w
  · obtain ⟨w, rfl⟩ := hi; exact absurd h (by simp)
  · rw [exec_eq_onPort i s fun w hw => hi ⟨w, hw⟩] at h
    exact State.onPort_eq_next.mp h

/-- What an operation answers at a port that has a copy. -/
theorem exec_of {i : Instr} {s : State} {t : Block} (h : s.insts[s.port]? = some t) :
    exec i s = andThen (Block.meaning i t) fun u => .next (s.withInst u) := by
  by_cases hi : ∃ w, i = .reserved w
  · obtain ⟨w, rfl⟩ := hi; rfl
  · rw [exec_eq_onPort i s fun w hw => hi ⟨w, hw⟩, State.onPort_of h]

/-- An operation whose effect on the addressed copy is `u` completes with that copy `u` and all else as it was. -/
theorem completesAs_of_meaning {i : Instr} {s : State} {t u : Block} (h : s.insts[s.port]? = some t)
    (hm : Block.meaning i t = .next u) : completesAs i s u :=
  ⟨s.withInst u, by rw [exec_of h, hm]; rfl, State.withInst_same h u, rfl, rfl, by simp,
    fun _ hk => State.withInst_other s u hk⟩

/-- A step takes nothing, a RESET, or one operation. -/
theorem step_eq_next {s s' : State} (h : step s = .next s') :
    (s.input = [] ∧ s' = s) ∨
    (∃ rest, s.input = .reset :: rest ∧ s' = (s.withInput rest).resetEvent) ∨
    (∃ i p rest, s.input.head? ≠ some .reset ∧ exec i ((s.withInput rest).atPort p) = .next s') := by
  unfold step present at h
  split at h
  · rename_i h'
    split at h' <;> simp at h'
    exact .inl ⟨by assumption, by simpa using h.symm⟩
  · rename_i s₁ h'
    split at h' <;> simp at h'
    rename_i rest hin
    exact .inr (.inl ⟨rest, hin, by subst h'; simpa using h.symm⟩)
  · rename_i i s₁ h'
    split at h' <;> simp at h'
    · rename_i p w rest hin
      obtain ⟨rfl, rfl⟩ := h'
      exact .inr (.inr ⟨_, p, rest, by simp [hin], h⟩)
    · rename_i p j rest hin
      obtain ⟨rfl, rfl⟩ := h'
      exact .inr (.inr ⟨_, p, rest, by simp [hin], h⟩)

end Sys2Proof.Machine
end

