-- ==== Sys2Proof/Laws/Crc.lean ====
section
/-! SUPPORT. The CRC engine: what feeding a sequence of bytes leaves, and the expansions built on it. -/

namespace Sys2Proof.Machine

@[simp] theorem compute_nil (v : Word16) : compute v [] = v := rfl

@[simp] theorem compute_cons (v : Word16) (d : Byte) (D : List Byte) :
    compute v (d :: D) = compute (crcUpdate v d) D := rfl

theorem Block.crcByte_seeded {t : Block} (h : t.crcValid = true) (d : Byte) :
    t.crcByte d = .next (t.setCrc (crcUpdate t.crc d)) := by
  simp [Block.crcByte, h]

theorem Block.crcByte_unseeded {t : Block} (h : t.crcValid = false) (d : Byte) :
    t.crcByte d = .refused .crcUnseeded := by
  simp [Block.crcByte, h]

/-- Feeding bytes to a seeded engine leaves the fold of them, and changes nothing else. -/
theorem Block.runEach_crcByte {t : Block} (h : t.crcValid = true) (D : List Byte) :
    runEach Block.crcByte D t = .next (t.setCrc (compute t.crc D)) := by
  induction D generalizing t with
  | nil => rfl
  | cons d D ih =>
    rw [runEach_cons, Block.crcByte_seeded h, andThen_next, ih (by simpa using h)]
    rfl

/-- The expansion of CRC.COMPUTE always completes. -/
theorem Block.crcCompute_eq (t : Block) (v : Word16) (D : List Byte) :
    t.crcCompute v D = .next (t.seedCrc (compute v D), compute v D) := by
  simp only [Block.crcCompute]
  rw [Block.runEach_crcByte (t := t.seedCrc v) rfl]
  rfl

/-- The expansion of FCS.APPEND always completes. -/
theorem Block.fcsAppend_eq (t : Block) (P : List Byte) :
    t.fcsAppend P = .next (t.seedCrc (compute fcsSeed P), P ++ fcsBytes (compute fcsSeed P)) := by
  simp [Block.fcsAppend, Block.crcCompute_eq]

/-- The expansion of FCS.CHECK always completes, with the verdict of the function. -/
theorem Block.fcsCheck_eq (t : Block) (B : List Byte) :
    t.fcsCheck B = .next (if B.length < fcsMinLen then t else t.seedCrc (compute fcsSeed (payloadOf B)),
      fcsVerdict B) := by
  simp only [Block.fcsCheck, fcsVerdict]
  split
  · rfl
  · simp [Block.crcCompute_eq]

/-- The expansion of TX.PACKET is the CRC engine's work and then the frame. -/
theorem Block.txPacket_eq (t : Block) (P : List Byte) :
    t.txPacket P = (t.seedCrc (compute fcsSeed P)).txFrame (P ++ fcsBytes (compute fcsSeed P)) := by
  simp [Block.txPacket, Block.fcsAppend_eq]

end Sys2Proof.Machine
end

