-- ==== Sys2Proof/Laws/Decode.lean ====
section
/-! SUPPORT. The fields of a command word as numbers, and of one put together from its fields. -/

namespace Sys2Proof

theorem Cmd.make_toNat (op : BitVec 4) (arg : Word16) :
    (Cmd.make op arg).toNat = op.toNat * 65536 + arg.toNat := by
  have h : (Cmd.make op arg).toNat = op.toNat <<< 16 ||| arg.toNat := BitVec.toNat_append op arg
  rw [h, ← Nat.shiftLeft_add_eq_or_of_lt arg.isLt, Nat.shiftLeft_eq]

theorem byteArg_toNat (d : Byte) : (byteArg d).toNat = d.toNat := by
  have h : (byteArg d).toNat = (0#8).toNat <<< 8 ||| d.toNat := BitVec.toNat_append 0#8 d
  rw [h]; simp

theorem Cmd.op_toNat (w : Cmd) : w.op.toNat = w.toNat / 65536 := by
  have := w.isLt
  simp only [Cmd.op, BitVec.extractLsb'_toNat, Nat.shiftRight_eq_div_pow]
  omega

theorem Cmd.arg_toNat (w : Cmd) : w.arg.toNat = w.toNat % 65536 := by
  simp [Cmd.arg, BitVec.extractLsb'_toNat]

theorem Cmd.argHigh_toNat (w : Cmd) : w.argHigh.toNat = w.toNat / 256 % 256 := by
  simp [Cmd.argHigh, BitVec.extractLsb'_toNat, Nat.shiftRight_eq_div_pow]

theorem Cmd.argLow_toNat (w : Cmd) : w.argLow.toNat = w.toNat % 256 := by
  simp [Cmd.argLow, BitVec.extractLsb'_toNat]

@[simp] theorem Cmd.make_op (op : BitVec 4) (arg : Word16) : (Cmd.make op arg).op = op := by
  apply BitVec.eq_of_toNat_eq
  have := arg.isLt
  rw [Cmd.op_toNat, Cmd.make_toNat]
  omega

@[simp] theorem Cmd.make_arg (op : BitVec 4) (arg : Word16) : (Cmd.make op arg).arg = arg := by
  apply BitVec.eq_of_toNat_eq
  have := arg.isLt
  rw [Cmd.arg_toNat, Cmd.make_toNat]
  omega

@[simp] theorem Cmd.make_argHigh_byteArg (op : BitVec 4) (d : Byte) :
    (Cmd.make op (byteArg d)).argHigh = 0#8 := by
  apply BitVec.eq_of_toNat_eq
  have := d.isLt
  rw [Cmd.argHigh_toNat, Cmd.make_toNat, byteArg_toNat]
  simp only [BitVec.toNat_ofNat]
  omega

@[simp] theorem Cmd.make_argLow_byteArg (op : BitVec 4) (d : Byte) :
    (Cmd.make op (byteArg d)).argLow = d := by
  apply BitVec.eq_of_toNat_eq
  have := d.isLt
  rw [Cmd.argLow_toNat, Cmd.make_toNat, byteArg_toNat]
  omega

/-- A command word is its two fields put together. -/
theorem Cmd.make_of_fields (w : Cmd) : Cmd.make w.op w.arg = w := by
  apply BitVec.eq_of_toNat_eq
  rw [Cmd.make_toNat, Cmd.op_toNat, Cmd.arg_toNat]
  omega

/-- A command word with a byte operand is its operation number and that byte. -/
theorem Cmd.make_of_byte {w : Cmd} (h : w.argHigh = 0#8) : Cmd.make w.op (byteArg w.argLow) = w := by
  apply BitVec.eq_of_toNat_eq
  have h' := congrArg BitVec.toNat h
  rw [Cmd.argHigh_toNat] at h'
  simp only [BitVec.toNat_ofNat] at h'
  rw [Cmd.make_toNat, byteArg_toNat, Cmd.op_toNat, Cmd.argLow_toNat]
  omega

end Sys2Proof
end

