-- ==== Sys2Proof/Laws/Deframer.lean ====
section
/-! SUPPORT. The deframer: all that one wire byte can do, said once, and that it keeps the invariant. -/

namespace Sys2Proof.Machine

/-- What one wire byte can do to a copy: the ten rows of 41_deframer.md section 7, by their effect. -/
inductive Block.RxMove (t : Block) : Block → Prop where
  /-- R92 -/
  | discard : t.RxMove t
  /-- R91, and R93 where it is silent -/
  | start : t.RxMove (t.beginFrame)
  /-- R93 where it is flagged -/
  | premature : t.RxMove ((t.raiseRxError .prematureStart).beginFrame)
  /-- R94 -/
  | complete (data : List Byte) (h : Memory.copyFirst t.rxBuf t.rxLen = some data) :
      t.RxMove ((t.emitRx (t.frameEvent data)).setRxState .idle)
  /-- R95 -/
  | escape : t.RxMove (t.openEscape)
  /-- R96 and R97 under capacity -/
  | store (v : Byte) (h : t.rxLen < t.params.cap) :
      t.RxMove (((t.store t.rxLen v).setRxLen (t.rxLen + 1)).setRxState .receiving)
  /-- R99 at capacity -/
  | overflow (h : t.params.cap ≤ t.rxLen) : t.RxMove (t.raiseRxError .bufferOverflow)
  /-- R98 -/
  | bad : t.RxMove (t.badEscape)

theorem Block.append_move (t : Block) (v : Byte) : t.RxMove (t.append v) := by
  unfold Block.append
  split
  · exact .store v (by assumption)
  · exact .overflow (by omega)

theorem Block.prematureStart_move (t : Block) : t.RxMove t.prematureStart := by
  unfold Block.prematureStart
  split
  · exact .premature
  · exact .start

theorem Block.completeFrame_move {t u : Block} (h : t.completeFrame = .next u) : t.RxMove u := by
  unfold Block.completeFrame at h
  split at h
  · exact absurd h (by simp)
  · simp only [Host.Outcome.next.injEq] at h
    exact h ▸ .complete _ (by assumption)

theorem Block.rxByte_move {t u : Block} {b : Byte} (h : t.rxByte b = .next u) : t.RxMove u := by
  unfold Block.rxByte at h
  split at h
  · split at h <;> simp only [Host.Outcome.next.injEq] at h <;> subst h
    · exact .start
    · exact .discard
  · split at h
    · simp only [Host.Outcome.next.injEq] at h; exact h ▸ t.prematureStart_move
    · split at h
      · exact Block.completeFrame_move h
      · split at h <;> simp only [Host.Outcome.next.injEq] at h <;> subst h
        · exact .escape
        · exact t.append_move b
  · split at h <;> simp only [Host.Outcome.next.injEq] at h <;> subst h
    · exact t.append_move _
    · exact .bad

theorem Block.inRxRow_eq_next {t u : Block} {ctx : RxState} {c : Bool} {o : Out Block}
    (h : t.inRxRow ctx c o = .next u) : t.rxState = ctx ∧ c = true ∧ o = .next u := by
  unfold Block.inRxRow at h
  split at h
  · rename_i hc; exact ⟨hc.1, hc.2, h⟩
  · exact absurd h (by simp)

theorem Block.inRxRow_of {t : Block} {ctx : RxState} (h : t.rxState = ctx) (o : Out Block) :
    t.inRxRow ctx true o = o := by
  simp [Block.inRxRow, h]

theorem Block.inRxRow_other {t : Block} {ctx : RxState} (h : t.rxState ≠ ctx) (c : Bool) (o : Out Block) :
    t.inRxRow ctx c o = .refused .rowOutOfContext := by
  simp [Block.inRxRow, h]

/-- A move keeps the parameters, the CRC engine, the framer and the returned values. -/
theorem Block.RxMove.others {t u : Block} (h : t.RxMove u) :
    u.params = t.params ∧ u.crc = t.crc ∧ u.crcValid = t.crcValid ∧ u.txState = t.txState ∧
    u.txOut = t.txOut ∧ u.results = t.results := by
  cases h <;> exact ⟨rfl, rfl, rfl, rfl, rfl, rfl⟩

/-- A move emits at most one event. -/
theorem Block.RxMove.events {t u : Block} (h : t.RxMove u) :
    u.rxEvt = t.rxEvt ∨ ∃ e, u.rxEvt = t.rxEvt ++ [e] := by
  cases h <;> first | exact .inl rfl | exact .inr ⟨_, rfl⟩

theorem Block.inv_of_empty {t : Block} (h : t.Inv) (u : Block) (hp : u.params = t.params) (hb : u.rxBuf = t.rxBuf)
    (hl : u.rxLen = 0) : u.Inv := by
  obtain ⟨h1, _, h3, h4, _⟩ := h
  refine ⟨by rw [hp]; exact h1, by omega, by rw [hb]; exact h3, by rw [hp, hb]; exact h4, ?_⟩
  intro a ha
  omega

theorem Block.inv_of_same {t : Block} (h : t.Inv) (u : Block) (hp : u.params = t.params) (hb : u.rxBuf = t.rxBuf)
    (hl : u.rxLen = t.rxLen) : u.Inv := by
  unfold Block.Inv
  rw [hp, hb, hl]
  exact h

/-- A store under capacity keeps the invariant. -/
theorem Block.inv_of_store {t : Block} (h : t.Inv) (v : Byte) (hc : t.rxLen < t.params.cap) (u : Block)
    (hp : u.params = t.params) (hb : u.rxBuf = Memory.write t.rxBuf t.rxLen v) (hl : u.rxLen = t.rxLen + 1) :
    u.Inv := by
  obtain ⟨h1, h2, h3, h4, h5⟩ := h
  unfold Block.Inv
  rw [hp, hb, hl]
  refine ⟨h1, hc, Memory.write_wf _ _ _ h3, fun a ha => ?_, fun a ha => ?_⟩
  · rw [Memory.read_write_other _ _ (by omega)]; exact h4 a ha
  · rw [Memory.read_write]
    split
    · rfl
    · exact h5 a (by omega)

/-- A move keeps the invariant. -/
theorem Block.RxMove.inv {t u : Block} (h : t.RxMove u) (ht : t.Inv) : u.Inv := by
  cases h with
  | discard => exact ht
  | start => exact Block.inv_of_empty ht _ rfl rfl rfl
  | premature => exact Block.inv_of_empty ht _ rfl rfl rfl
  | complete data h => exact Block.inv_of_same ht _ rfl rfl rfl
  | escape => exact Block.inv_of_same ht _ rfl rfl rfl
  | store v h => exact Block.inv_of_store ht v h _ rfl rfl rfl
  | overflow h => exact Block.inv_of_empty ht _ rfl rfl rfl
  | bad => exact Block.inv_of_empty ht _ rfl rfl rfl

/-- In a copy that satisfies the invariant END finds every byte it copies. -/
theorem Block.completeFrame_of_inv {t : Block} (h : t.Inv) : ∃ u, t.completeFrame = .next u := by
  obtain ⟨l, hl⟩ := Memory.copyFirst_isSome t.rxBuf t.rxLen h.2.2.2.2
  exact ⟨_, by simp [Block.completeFrame, hl]; rfl⟩

/-- RX.BYTE is total on copies that satisfy the invariant. -/
theorem Block.rxByte_total {t : Block} (h : t.Inv) (b : Byte) : ∃ u, t.rxByte b = .next u := by
  unfold Block.rxByte
  split
  · split <;> exact ⟨_, rfl⟩
  · split
    · exact ⟨_, rfl⟩
    · split
      · exact Block.completeFrame_of_inv h
      · split <;> exact ⟨_, rfl⟩
  · split <;> exact ⟨_, rfl⟩

end Sys2Proof.Machine
end

