-- ==== Sys2Proof/Laws/Framer.lean ====
section
/-! SUPPORT. The framer: what sending a sequence of bytes leaves. -/

namespace Sys2Proof.Machine

/-- The copy with the bytes `l` sent. -/
def Block.sent (t : Block) (l : List Byte) : Block := { t with txOut := t.txOut ++ l }

@[simp] theorem Block.sent_txState (t : Block) (l : List Byte) : (t.sent l).txState = t.txState := rfl

@[simp] theorem Block.sent_txOut (t : Block) (l : List Byte) : (t.sent l).txOut = t.txOut ++ l := rfl

@[simp] theorem Block.sent_nil (t : Block) : t.sent [] = t := by simp [Block.sent]

@[simp] theorem Block.sent_sent (t : Block) (l m : List Byte) : (t.sent l).sent m = t.sent (l ++ m) := by
  simp [Block.sent]

theorem Block.emitTx_eq_sent (t : Block) (b : Byte) : t.emitTx b = t.sent [b] := rfl

theorem Block.emitPair_eq_sent (t : Block) (b : Byte) : t.emitPair b = t.sent [escapeByte, b] := by
  simp [Block.emitPair, Block.emitTx_eq_sent]

/-- TX.BYTE with a frame open appends the stuffed form of its byte. -/
theorem Block.txByte_open {t : Block} (h : t.txState = .txOpen) (d : Byte) :
    t.txByte d = .next (t.sent (stuff d)) := by
  unfold Block.txByte stuff
  rw [h]
  simp only [Block.emitPair_eq_sent, Block.emitTx_eq_sent]
  split
  · rfl
  · split
    · rfl
    · split <;> rfl

theorem Block.txByte_idle {t : Block} (h : t.txState = .txIdle) (d : Byte) :
    t.txByte d = .refused .txSequence := by
  unfold Block.txByte; rw [h]

/-- Sending bytes with a frame open appends their stuffed forms, and changes nothing else. -/
theorem Block.runEach_txByte {t : Block} (h : t.txState = .txOpen) (D : List Byte) :
    runEach Block.txByte D t = .next (t.sent (D.flatMap stuff)) := by
  induction D generalizing t with
  | nil => simp
  | cons d D ih => rw [runEach_cons, Block.txByte_open h, andThen_next, ih (by exact h)]; simp

/-- The expansion of TX.FRAME with no frame open. -/
theorem Block.txFrame_idle {t : Block} (h : t.txState = .txIdle) (D : List Byte) :
    t.txFrame D = .next (t.sent (frameEncode D)) := by
  unfold Block.txFrame Block.txStart
  rw [h]
  simp only [andThen_next]
  rw [Block.runEach_txByte (by rfl)]
  cases t
  simp_all [Block.txEnd, Block.emitTx, Block.setTxState, frameEncode, Block.sent]

theorem Block.txFrame_open {t : Block} (h : t.txState = .txOpen) (D : List Byte) :
    t.txFrame D = .refused .txSequence := by
  unfold Block.txFrame Block.txStart; rw [h]; rfl

theorem Block.inTxRow_idle {t : Block} (h : t.txState = .txIdle) (c : Bool) (o : Out Block) :
    t.inTxRow c o = .refused .txSequence := by
  unfold Block.inTxRow; rw [h]

theorem Block.inTxRow_open {t : Block} (h : t.txState = .txOpen) (o : Out Block) :
    t.inTxRow true o = o := by
  unfold Block.inTxRow; rw [h]; simp

end Sys2Proof.Machine
end

