-- ==== Sys2Proof/Laws/Moves.lean ====
section
/-! SUPPORT. All that any operation can do to the addressed copy, said once: it works on the CRC engine, on the deframer
or on the framer (TX.PACKET on the CRC engine and then on the framer). -/

namespace Sys2Proof.Machine

/-- What a framer operation sends, and the framer states before and after (42_framer.md R120 to R122, R125). -/
inductive TxMove : TxState → TxState → List Byte → Prop where
  | start : TxMove .txIdle .txOpen [startByte]
  | byte (d : Byte) : TxMove .txOpen .txOpen (stuff d)
  | stop : TxMove .txOpen .txIdle [endByte]
  | frame (D : List Byte) : TxMove .txIdle .txIdle (frameEncode D)

/-- What an operation can do to a copy. -/
inductive Block.Move (t : Block) : Block → Prop where
  /-- The CRC engine's accumulator and valid bit, which is not lost, and values returned. -/
  | crc (c : Word16) (v : Bool) (rs : List Result) (h : t.crcValid = true → v = true) :
      t.Move { t with crc := c, crcValid := v, results := t.results ++ rs }
  /-- Wire bytes in order, and values returned. -/
  | rx (W : List Byte) (u : Block) (rs : List Result) (h : t.rxStream W = .next u) :
      t.Move { u with results := u.results ++ rs }
  /-- One row of RX.BYTE's sub-decode. -/
  | row (u : Block) (h : t.RxMove u) : t.Move u
  /-- RX.RESET. -/
  | rxReset : t.Move ((t.setRxState .idle).setRxLen 0)
  /-- The framer. -/
  | tx (x : TxState) (l : List Byte) (h : TxMove t.txState x l) :
      t.Move { t with txState := x, txOut := t.txOut ++ l }
  /-- The CRC engine and then a whole frame. -/
  | packet (c : Word16) (D : List Byte) (h : t.txState = .txIdle) :
      t.Move { t with crc := c, crcValid := true, txOut := t.txOut ++ frameEncode D }

/-- A property every row keeps is kept by any sequence of wire bytes. -/
theorem Block.rxStream_keeps {P : Block → Prop} (hP : ∀ t u : Block, P t → t.RxMove u → P u) {W : List Byte}
    {t u : Block} (ht : P t) (h : t.rxStream W = .next u) : P u :=
  runEach_keeps (fun _ t u ht h => hP t u ht (Block.rxByte_move h)) ht h

theorem Block.tx_move {t : Block} {x : TxState} {l : List Byte} (h : TxMove t.txState x l) (u : Block)
    (hu : u = { t with txState := x, txOut := t.txOut ++ l }) : t.Move u := hu ▸ .tx x l h

theorem Block.stuff_move {t : Block} (h : t.txState = .txOpen) (d : Byte) : t.Move (t.sent (stuff d)) :=
  Block.tx_move (x := t.txState) (by rw [h]; exact .byte d) _ rfl

theorem Block.frame_move {t : Block} (h : t.txState = .txIdle) (D : List Byte) :
    t.Move (t.sent (frameEncode D)) :=
  Block.tx_move (x := t.txState) (by rw [h]; exact .frame D) _ rfl

theorem Block.inTxRow_eq_next {t u : Block} {c : Bool} {o : Out Block} (h : t.inTxRow c o = .next u) :
    t.txState = .txOpen ∧ c = true ∧ o = .next u := by
  unfold Block.inTxRow at h
  split at h
  · exact absurd h (by simp)
  · split at h
    · exact ⟨by assumption, by assumption, h⟩
    · exact absurd h (by simp)

/-- A row of TX.BYTE sends the stuffed form of the byte it stands for. -/
theorem Block.txRow_move {t u : Block} {c : Bool} {l : List Byte} (d : Byte)
    (h : t.inTxRow c (.next (t.sent l)) = .next u) (hl : c = true → stuff d = l) : t.Move u := by
  obtain ⟨hx, hc, hu⟩ := Block.inTxRow_eq_next h
  simp only [Host.Outcome.next.injEq] at hu
  rw [← hu, ← hl hc]
  exact Block.stuff_move hx d

/-- A row of RX.BYTE is a deframer move. -/
theorem Block.rxRow_move {t u w : Block} {ctx : RxState} {c : Bool}
    (h : t.inRxRow ctx c (.next w) = .next u) (hw : t.RxMove w) : t.Move u := by
  have hu := (Block.inRxRow_eq_next h).2.2
  simp only [Host.Outcome.next.injEq] at hu
  exact hu ▸ .row w hw

/-- All an operation can do when it answers a next state. -/
theorem Block.meaning_move {i : Instr} {t u : Block} (h : Block.meaning i t = .next u) : t.Move u := by
  cases i <;> simp only [Block.meaning] at h
  case crcInit v =>
    simp only [Host.Outcome.next.injEq] at h
    rw [← h, show t.seedCrc v = { t with crc := v, crcValid := true, results := t.results ++ [] } by
      simp [Block.seedCrc]]
    exact .crc v true [] fun _ => rfl
  case crcByte d =>
    unfold Block.crcByte at h
    split at h <;> simp only [Host.Outcome.next.injEq, reduceCtorEq] at h
    rw [← h, show t.setCrc (crcUpdate t.crc d) =
      { t with crc := crcUpdate t.crc d, crcValid := t.crcValid, results := t.results ++ [] } by simp [Block.setCrc]]
    exact .crc _ _ [] id
  case crcRead =>
    obtain ⟨c, _, hu⟩ := andThen_eq_next.mp h
    simp only [Host.Outcome.next.injEq] at hu
    exact hu ▸ .crc t.crc t.crcValid [.word c] id
  case crcCompute v D =>
    simp only [Block.crcCompute_eq, andThen_next, Host.Outcome.next.injEq] at h
    exact h ▸ .crc _ true [.word (compute v D)] fun _ => rfl
  case fcsAppend P =>
    simp only [Block.fcsAppend_eq, andThen_next, Host.Outcome.next.injEq] at h
    exact h ▸ .crc _ true [.bytes (P ++ fcsBytes (compute fcsSeed P))] fun _ => rfl
  case fcsCheck B =>
    simp only [Block.fcsCheck_eq, andThen_next, Host.Outcome.next.injEq] at h
    rw [← h]
    split
    · exact .crc t.crc t.crcValid [_] id
    · exact .crc _ true [_] fun _ => rfl
  case rxReset =>
    simp only [Host.Outcome.next.injEq] at h
    exact h ▸ .rxReset
  case rxByte b => exact .row u (Block.rxByte_move h)
  case rxStream W =>
    obtain ⟨w, hw, hu⟩ := andThen_eq_next.mp h
    simp only [Host.Outcome.next.injEq] at hu
    exact hu ▸ .rx W w [_] hw
  case rxIdleStart => exact Block.rxRow_move h .start
  case rxIdleOther b => exact Block.rxRow_move h .discard
  case rxReceivingStart => exact Block.rxRow_move h t.prematureStart_move
  case rxReceivingEnd => exact .row u (Block.completeFrame_move (Block.inRxRow_eq_next h).2.2)
  case rxReceivingEscape => exact Block.rxRow_move h .escape
  case rxReceivingData b => exact Block.rxRow_move h (t.append_move b)
  case rxEscapedSubStart => exact Block.rxRow_move h (t.append_move _)
  case rxEscapedSubEnd => exact Block.rxRow_move h (t.append_move _)
  case rxEscapedSubEscape => exact Block.rxRow_move h (t.append_move _)
  case rxEscapedInvalid b => exact Block.rxRow_move h .bad
  case reserved w => exact absurd h (by simp)
  case txStart =>
    unfold Block.txStart at h
    split at h <;> simp only [Host.Outcome.next.injEq, reduceCtorEq] at h
    rename_i hx
    exact Block.tx_move (x := .txOpen) (by rw [hx]; exact .start) _ h.symm
  case txEnd =>
    unfold Block.txEnd at h
    split at h <;> simp only [Host.Outcome.next.injEq, reduceCtorEq] at h
    rename_i hx
    exact Block.tx_move (x := .txIdle) (by rw [hx]; exact .stop) _ h.symm
  case txByte d =>
    cases hx : t.txState with
    | txIdle => rw [Block.txByte_idle hx] at h; exact absurd h (by simp)
    | txOpen =>
      rw [Block.txByte_open hx, Host.Outcome.next.injEq] at h
      exact h ▸ Block.stuff_move hx d
  case txByteStartValued =>
    rw [Block.emitPair_eq_sent] at h
    exact Block.txRow_move startByte h fun _ => by decide
  case txByteEndValued =>
    rw [Block.emitPair_eq_sent] at h
    exact Block.txRow_move endByte h fun _ => by decide
  case txByteEscapeValued =>
    rw [Block.emitPair_eq_sent] at h
    exact Block.txRow_move escapeByte h fun _ => by decide
  case txBytePlain d =>
    rw [Block.emitTx_eq_sent] at h
    exact Block.txRow_move d h fun hd => by simp [isReservedByte] at hd; simp [stuff, hd]
  case txFrame D =>
    cases hx : t.txState with
    | txOpen => rw [Block.txFrame_open hx] at h; exact absurd h (by simp)
    | txIdle =>
      rw [Block.txFrame_idle hx, Host.Outcome.next.injEq] at h
      exact h ▸ Block.frame_move hx D
  case txPacket P =>
    rw [Block.txPacket_eq] at h
    cases hx : t.txState with
    | txOpen => rw [Block.txFrame_open (by exact hx)] at h; exact absurd h (by simp)
    | txIdle =>
      rw [Block.txFrame_idle (by exact hx), Host.Outcome.next.injEq] at h
      exact h ▸ .packet _ _ hx

end Sys2Proof.Machine
end

