-- ==== Sys2Proof/Laws/PerInstr.lean ====
section
/-! SUPPORT. Statements about every row of the opcode table as syntax, one lemma per constructor. -/

namespace Sys2Proof.Laws

/-- A row has a coded form exactly when it is no composite (30_encoding.md R60: "A composite has no command word of its
own"). -/
def CodedForm.Statement (i : Instr) : Prop := (encode i).isNone = i.isComposite

theorem CodedForm.crcInit (s : Word16) : CodedForm.Statement (.crcInit s) := rfl
theorem CodedForm.crcByte (d : Byte) : CodedForm.Statement (.crcByte d) := rfl
theorem CodedForm.crcRead : CodedForm.Statement (.crcRead) := rfl
theorem CodedForm.rxReset : CodedForm.Statement (.rxReset) := rfl
theorem CodedForm.rxByte (b : Byte) : CodedForm.Statement (.rxByte b) := rfl
theorem CodedForm.txStart : CodedForm.Statement (.txStart) := rfl
theorem CodedForm.txByte (d : Byte) : CodedForm.Statement (.txByte d) := rfl
theorem CodedForm.txEnd : CodedForm.Statement (.txEnd) := rfl
theorem CodedForm.reserved (w : Cmd) : CodedForm.Statement (.reserved w) := rfl
theorem CodedForm.rxIdleStart : CodedForm.Statement (.rxIdleStart) := rfl
theorem CodedForm.rxIdleOther (b : Byte) : CodedForm.Statement (.rxIdleOther b) := rfl
theorem CodedForm.rxReceivingStart : CodedForm.Statement (.rxReceivingStart) := rfl
theorem CodedForm.rxReceivingEnd : CodedForm.Statement (.rxReceivingEnd) := rfl
theorem CodedForm.rxReceivingEscape : CodedForm.Statement (.rxReceivingEscape) := rfl
theorem CodedForm.rxReceivingData (b : Byte) : CodedForm.Statement (.rxReceivingData b) := rfl
theorem CodedForm.rxEscapedSubStart : CodedForm.Statement (.rxEscapedSubStart) := rfl
theorem CodedForm.rxEscapedSubEnd : CodedForm.Statement (.rxEscapedSubEnd) := rfl
theorem CodedForm.rxEscapedSubEscape : CodedForm.Statement (.rxEscapedSubEscape) := rfl
theorem CodedForm.rxEscapedInvalid (b : Byte) : CodedForm.Statement (.rxEscapedInvalid b) := rfl
theorem CodedForm.txByteStartValued : CodedForm.Statement (.txByteStartValued) := rfl
theorem CodedForm.txByteEndValued : CodedForm.Statement (.txByteEndValued) := rfl
theorem CodedForm.txByteEscapeValued : CodedForm.Statement (.txByteEscapeValued) := rfl
theorem CodedForm.txBytePlain (d : Byte) : CodedForm.Statement (.txBytePlain d) := rfl
theorem CodedForm.crcCompute (s : Word16) (D : List Byte) : CodedForm.Statement (.crcCompute s D) := rfl
theorem CodedForm.txFrame (D : List Byte) : CodedForm.Statement (.txFrame D) := rfl
theorem CodedForm.fcsAppend (P : List Byte) : CodedForm.Statement (.fcsAppend P) := rfl
theorem CodedForm.fcsCheck (B : List Byte) : CodedForm.Statement (.fcsCheck B) := rfl
theorem CodedForm.txPacket (P : List Byte) : CodedForm.Statement (.txPacket P) := rfl
theorem CodedForm.rxStream (W : List Byte) : CodedForm.Statement (.rxStream W) := rfl

end Sys2Proof.Laws
end

