-- ==== Sys2Proof/Laws/Reset.lean ====
section
/-! SUPPORT. The copies after reset. -/

namespace Sys2Proof.Machine

@[simp] theorem resetInstances_length (n k : Nat) : (resetInstances n k).length = n := by
  induction n generalizing k with
  | zero => rfl
  | succ n ih => simp [resetInstances, ih]

/-- The copy at place `j` is a copy after reset with the parameters of its own number. -/
theorem resetInstances_getElem? {n k j : Nat} {t : Block} (h : (resetInstances n k)[j]? = some t) :
    t = Block.reset (Config.params (k + j)) := by
  induction n generalizing k j with
  | zero => simp [resetInstances] at h
  | succ n ih =>
    cases j with
    | zero => simpa [resetInstances] using h.symm
    | succ j =>
      rw [ih (k := k + 1) (j := j) (by simpa [resetInstances] using h), show k + 1 + j = k + (j + 1) by omega]

end Sys2Proof.Machine
end

