-- ==== Sys2Proof/Tests/Slice0.lean ====
section
/-! SUPPORT. The model's own tests: expected values from spec/95_test_vectors.md and the examples of the rules. -/

namespace Sys2Proof.Tests

open Sys2Proof.Machine

/-! ### Well-formedness refuses each ill-formed term -/

theorem test_illFormed_reserved : Instr.wellFormed (.reserved 0x30000#20) = false := by decide
theorem test_illFormed_idleOther : Instr.wellFormed (.rxIdleOther 0xA0#8) = false := by decide
theorem test_illFormed_receivingData_start : Instr.wellFormed (.rxReceivingData 0xA0#8) = false := by decide
theorem test_illFormed_receivingData_end : Instr.wellFormed (.rxReceivingData 0x05#8) = false := by decide
theorem test_illFormed_receivingData_escape : Instr.wellFormed (.rxReceivingData 0xF0#8) = false := by decide
theorem test_illFormed_escapedInvalid_start : Instr.wellFormed (.rxEscapedInvalid 0x01#8) = false := by decide
theorem test_illFormed_escapedInvalid_end : Instr.wellFormed (.rxEscapedInvalid 0x02#8) = false := by decide
theorem test_illFormed_escapedInvalid_escape : Instr.wellFormed (.rxEscapedInvalid 0xF0#8) = false := by decide
theorem test_illFormed_txPlain_start : Instr.wellFormed (.txBytePlain 0xA0#8) = false := by decide
theorem test_illFormed_txPlain_end : Instr.wellFormed (.txBytePlain 0x05#8) = false := by decide
theorem test_illFormed_txPlain_escape : Instr.wellFormed (.txBytePlain 0xF0#8) = false := by decide

/-! ### Decoding: words written out bit by bit from 30_encoding.md R53, bytes from R55 to R57 -/

theorem test_word_crcInit : decodeWord 0b0001_1111111111111111#20 = .crcInit 0xFFFF#16 := by decide
theorem test_word_crcByte : decodeWord 0b0010_00000000_00110001#20 = .crcByte 0x31#8 := by decide
theorem test_word_crcRead : decodeWord 0b0011_0000000000000000#20 = .crcRead := by decide
theorem test_word_rxReset : decodeWord 0b0100_0000000000000000#20 = .rxReset := by decide
theorem test_word_rxByte : decodeWord 0b0101_00000000_10100000#20 = .rxByte 0xA0#8 := by decide
theorem test_word_txStart : decodeWord 0b0110_0000000000000000#20 = .txStart := by decide
theorem test_word_txByte : decodeWord 0b0111_00000000_01010111#20 = .txByte 0x57#8 := by decide
theorem test_word_txEnd : decodeWord 0b1000_0000000000000000#20 = .txEnd := by decide
theorem test_word_reserved_op0 : decodeWord 0b0000_0000000000000000#20 = .reserved 0#20 := by decide
theorem test_word_reserved_op9 : decodeWord 0b1001_0000000000000000#20 = .reserved 0x90000#20 := by decide
theorem test_word_reserved_mbz_byte : decodeWord 0b0101_00000001_10100000#20 = .reserved 0x501A0#20 := by decide
theorem test_word_reserved_mbz_none : decodeWord 0b0011_0000000000000001#20 = .reserved 0x30001#20 := by decide
theorem test_wire_idleStart : decodeWire .idle 0b10100000#8 = .rxIdleStart := by decide
theorem test_wire_idleOther : decodeWire .idle 0b11110000#8 = .rxIdleOther 0xF0#8 := by decide
theorem test_wire_receivingStart : decodeWire .receiving 0b10100000#8 = .rxReceivingStart := by decide
theorem test_wire_receivingEnd : decodeWire .receiving 0b00000101#8 = .rxReceivingEnd := by decide
theorem test_wire_receivingEscape : decodeWire .receiving 0b11110000#8 = .rxReceivingEscape := by decide
theorem test_wire_receivingData : decodeWire .receiving 0b00000001#8 = .rxReceivingData 0x01#8 := by decide
theorem test_wire_escapedSubStart : decodeWire .escaped 0b00000001#8 = .rxEscapedSubStart := by decide
theorem test_wire_escapedSubEnd : decodeWire .escaped 0b00000010#8 = .rxEscapedSubEnd := by decide
theorem test_wire_escapedSubEscape : decodeWire .escaped 0b11110000#8 = .rxEscapedSubEscape := by decide
theorem test_wire_escapedInvalid : decodeWire .escaped 0b10100000#8 = .rxEscapedInvalid 0xA0#8 := by decide
theorem test_txData_start : decodeTxData 0b10100000#8 = .txByteStartValued := by decide
theorem test_txData_end : decodeTxData 0b00000101#8 = .txByteEndValued := by decide
theorem test_txData_escape : decodeTxData 0b11110000#8 = .txByteEscapeValued := by decide
theorem test_txData_plain : decodeTxData 0b00000001#8 = .txBytePlain 0x01#8 := by decide

/-! ### Small states -/

/-- A copy with number 0, capacity 4, flagged premature starts, a seeded engine and nothing in progress. -/
def blk : Block :=
  { params := ⟨0, 4, true⟩, crc := 0#16, crcValid := true, rxState := .idle, rxLen := 0, rxBuf := [],
    txState := .txIdle, rxEvt := [], txOut := [], results := [] }

/-- The copy in the middle of a frame of two bytes, 11 22. -/
def blkRx : Block := { blk with rxState := .receiving, rxLen := 2, rxBuf := [(0, 0x11#8), (1, 0x22#8)] }

/-- The copy in the middle of a full frame. -/
def blkFull : Block :=
  { blk with rxState := .receiving, rxLen := 4, rxBuf := [(0, 0x11#8), (1, 0x12#8), (2, 0x13#8), (3, 0x14#8)] }

/-- The copy with a frame open on the transmit side. -/
def blkTx : Block := { blk with txState := .txOpen }

/-- A machine of one copy. -/
def one (t : Block) : State := { insts := [t], port := 0, input := [] }

/-- The first copy after an operation, if it answered a next state. -/
def after (o : Out State) : Option Block :=
  match o with
  | .next s => s.insts[0]?
  | .fault _ => none
  | .refused _ => none

/-- The refusal an operation answered, if it did. -/
def refusal (o : Out State) : Option Refusal :=
  match o with
  | .next _ => none
  | .fault _ => none
  | .refused r => some r

/-! ### The CRC engine (95_test_vectors.md section 2.1) -/

theorem test_crcInit : (after (exec (.crcInit 0xFFFF#16) (one blk))).map (fun t => (t.crc, t.crcValid)) = some (0xFFFF#16, true) := by decide
theorem test_crcByte_31 : (after (exec (.crcByte 0x31#8) (one blk))).map (·.crc) = some 0x2672#16 := by decide
theorem test_crcByte_chained : crcUpdate 0x2672#16 0x32#8 = 0x20B5#16 := by decide
theorem test_crcByte_unseeded : refusal (exec (.crcByte 0#8) (one { blk with crcValid := false })) = some .crcUnseeded := by decide
theorem test_crcRead : (after (exec .crcRead (one { blk with crc := 0x20B5#16 }))).map (·.results) = some [.word 0x20B5#16] := by decide
theorem test_crcRead_unseeded : refusal (exec .crcRead (one { blk with crcValid := false })) = some .crcUnseeded := by decide
theorem test_crcCompute : (after (exec (.crcCompute 0x2672#16 [0x32#8]) (one blk))).map (·.results) = some [.word 0x20B5#16] := by decide
theorem test_crcCompute_seeded : (after (exec (.crcCompute 0xFFFF#16 [0#8]) (one blk))).map (·.crc) = some 0xE1F0#16 := by decide

/-! ### The deframer (95_test_vectors.md section 2.2 and the examples of 41_deframer.md) -/

theorem test_rxIdleStart : (after (exec .rxIdleStart (one blk))).map (fun t => (t.rxState, t.rxLen)) = some (.receiving, 0) := by decide
theorem test_rxIdleOther : (after (exec (.rxIdleOther 0xF0#8) (one blk))) = some blk := by decide
theorem test_rxReceivingStart : (after (exec .rxReceivingStart (one blkRx))).map (fun t => (t.rxState, t.rxLen, t.rxEvt)) =
    some (.receiving, 0, [⟨0, .error, .prematureStart, 0, []⟩]) := by decide
theorem test_rxReceivingStart_silent :
    (after (exec .rxReceivingStart (one { blkRx with params := ⟨0, 4, false⟩ }))).map (fun t => (t.rxLen, t.rxEvt)) = some (0, []) := by decide
theorem test_rxReceivingEnd : (after (exec .rxReceivingEnd (one blkRx))).map (fun t => (t.rxState, t.rxLen, t.rxEvt)) =
    some (.idle, 2, [⟨0, .frame, .none, 2, [0x11#8, 0x22#8]⟩]) := by decide
theorem test_rxReceivingEnd_full : (after (exec .rxReceivingEnd (one blkFull))).map (·.rxEvt) =
    some [⟨0, .frame, .none, 4, [0x11#8, 0x12#8, 0x13#8, 0x14#8]⟩] := by decide
theorem test_rxReceivingEscape : (after (exec .rxReceivingEscape (one blkFull))).map (fun t => (t.rxState, t.rxLen)) = some (.escaped, 4) := by decide
theorem test_rxReceivingData : (after (exec (.rxReceivingData 0x01#8) (one blkRx))).map (fun t => (t.rxLen, Memory.read t.rxBuf 2)) = some (3, some 0x01#8) := by decide
theorem test_rxReceivingData_overflow : (after (exec (.rxReceivingData 0x15#8) (one blkFull))).map (fun t => (t.rxState, t.rxLen, t.rxEvt)) =
    some (.idle, 0, [⟨0, .error, .bufferOverflow, 0, []⟩]) := by decide
theorem test_rxEscapedSubStart : (after (exec .rxEscapedSubStart (one { blkRx with rxState := .escaped }))).map (fun t => (t.rxState, Memory.read t.rxBuf 2)) =
    some (.receiving, some 0xA0#8) := by decide
theorem test_rxEscapedSubEnd : (after (exec .rxEscapedSubEnd (one { blkRx with rxState := .escaped }))).map (fun t => Memory.read t.rxBuf 2) = some (some 0x05#8) := by decide
theorem test_rxEscapedSubEscape : (after (exec .rxEscapedSubEscape (one { blkRx with rxState := .escaped }))).map (fun t => Memory.read t.rxBuf 2) = some (some 0xF0#8) := by decide
theorem test_rxEscapedSub_overflow : (after (exec .rxEscapedSubStart (one { blkFull with rxState := .escaped }))).map (fun t => (t.rxState, t.rxEvt)) =
    some (.idle, [⟨0, .error, .bufferOverflow, 0, []⟩]) := by decide
theorem test_rxEscapedInvalid_full : (after (exec (.rxEscapedInvalid 0x03#8) (one { blkFull with rxState := .escaped }))).map (fun t => (t.rxState, t.rxLen, t.rxEvt)) =
    some (.idle, 0, [⟨0, .error, .badEscapeSequence, 0, []⟩]) := by decide
theorem test_rxByte_start_after_escape : (after (exec (.rxByte 0xA0#8) (one { blkRx with rxState := .escaped }))).map (fun t => (t.rxState, t.rxEvt)) =
    some (.idle, [⟨0, .error, .badEscapeSequence, 0, []⟩]) := by decide
theorem test_rxByte_end_in_idle : after (exec (.rxByte 0x05#8) (one blk)) = some blk := by decide
theorem test_rxReset : (after (exec .rxReset (one { blkRx with rxState := .escaped }))).map (fun t => (t.rxState, t.rxLen, t.rxEvt)) = some (.idle, 0, []) := by decide
/-- V-RX-3: all three substitutions. -/
theorem test_rxStream_substitutions :
    (after (exec (.rxStream [0xA0#8, 0xF0#8, 0xF0#8, 0xF0#8, 0x01#8, 0xF0#8, 0x02#8, 0x05#8]) (one blk))).map (·.rxEvt) =
    some [⟨0, .frame, .none, 3, [0xF0#8, 0xA0#8, 0x05#8]⟩] := by decide
/-- V-RX-9: overflow at the fifth byte, the tail discarded, the next frame received. -/
theorem test_rxStream_overflow :
    (after (exec (.rxStream [0xA0#8, 0x11#8, 0x12#8, 0x13#8, 0x14#8, 0x15#8, 0x16#8, 0x05#8, 0xA0#8, 0x17#8, 0x05#8]) (one blk))).map (·.results) =
    some [.events [⟨0, .error, .bufferOverflow, 0, []⟩, ⟨0, .frame, .none, 1, [0x17#8]⟩]] := by decide
theorem test_row_out_of_context : refusal (exec .rxIdleStart (one blkRx)) = some .rowOutOfContext := by decide

/-! ### The framer (95_test_vectors.md section 2.3) -/

theorem test_txStart : (after (exec .txStart (one blk))).map (fun t => (t.txOut, t.txState)) = some ([0xA0#8], .txOpen) := by decide
theorem test_txStart_twice : refusal (exec .txStart (one blkTx)) = some .txSequence := by decide
theorem test_txByte_end : (after (exec (.txByte 0x05#8) (one blkTx))).map (·.txOut) = some [0xF0#8, 0x02#8] := by decide
theorem test_txByte_idle : refusal (exec (.txByte 0x11#8) (one blk)) = some .txSequence := by decide
theorem test_txByteStartValued : (after (exec .txByteStartValued (one blkTx))).map (·.txOut) = some [0xF0#8, 0x01#8] := by decide
theorem test_txByteEndValued : (after (exec .txByteEndValued (one blkTx))).map (·.txOut) = some [0xF0#8, 0x02#8] := by decide
theorem test_txByteEscapeValued : (after (exec .txByteEscapeValued (one blkTx))).map (·.txOut) = some [0xF0#8, 0xF0#8] := by decide
theorem test_txBytePlain : (after (exec (.txBytePlain 0x06#8) (one blkTx))).map (fun t => (t.txOut, t.txState)) = some ([0x06#8], .txOpen) := by decide
theorem test_txEnd : (after (exec .txEnd (one blkTx))).map (fun t => (t.txOut, t.txState)) = some ([0x05#8], .txIdle) := by decide
theorem test_txEnd_idle : refusal (exec .txEnd (one blk)) = some .txSequence := by decide
/-- V-TX-2. -/
theorem test_txFrame : (after (exec (.txFrame [0xA0#8, 0x05#8, 0xF0#8, 0x11#8]) (one blk))).map (·.txOut) =
    some [0xA0#8, 0xF0#8, 0x01#8, 0xF0#8, 0x02#8, 0xF0#8, 0xF0#8, 0x11#8, 0x05#8] := by decide

/-! ### The frame check sequence (95_test_vectors.md section 2.4) -/

/-- V-FCS-7a read backwards: compute(0,[12]) = 3273, low byte first. -/
theorem test_fcsAppend : (after (exec (.fcsAppend [0x12#8]) (one blk))).map (·.results) = some [.bytes [0x12#8, 0x73#8, 0x32#8]] := by decide
theorem test_fcsAppend_empty : (after (exec (.fcsAppend []) (one blk))).map (·.results) = some [.bytes [0#8, 0#8]] := by decide
theorem test_fcsCheck_ok : (after (exec (.fcsCheck [0x12#8, 0x73#8, 0x32#8]) (one blk))).map (·.results) = some [.verdict (.ok [0x12#8])] := by decide
theorem test_fcsCheck_mismatch : (after (exec (.fcsCheck [0x12#8, 0#8, 0#8]) (one blk))).map (·.results) = some [.verdict .crcMismatch] := by decide
theorem test_fcsCheck_short : (after (exec (.fcsCheck [0x12#8, 0x34#8]) (one { blk with crc := 7#16 }))).map (fun t => (t.crc, t.results)) =
    some (7#16, [.verdict .tooShort]) := by decide
/-- V-FCS-10: the low FCS byte is stuffed. -/
theorem test_txPacket : (after (exec (.txPacket [0xAA#8]) (one blk))).map (·.txOut) =
    some [0xA0#8, 0xAA#8, 0xF0#8, 0x01#8, 0x14#8, 0x05#8] := by decide
theorem test_receiveError : (Event.receiveError ⟨0, .frame, .none, 1, [0xF0#8]⟩) = .invalidPacketTooShort := by decide

/-! ### Steps -/

/-- 95_test_vectors.md P6: a step of one copy leaves the other alone. -/
theorem test_step_second_copy :
    (match step { insts := [blk, { blkRx with params := ⟨1, 4, true⟩ }], port := 0, input := [.word 1 0x50005#20] } with
      | .next s => s.insts.map (fun t => (t.rxState, t.rxEvt))
      | .fault _ => []
      | .refused _ => []) = [(.idle, []), (.idle, [⟨1, .frame, .none, 2, [0x11#8, 0x22#8]⟩])] := by decide
theorem test_step_reserved : refusal (step { one blk with input := [.word 0 0x00000#20] }) = some .reservedCommand := by decide
theorem test_step_reset : (after (step { one blkFull with input := [.reset] })).map (fun t => (t.rxState, t.rxLen, t.crcValid)) = some (.idle, 0, false) := by decide
theorem test_fetch_word_first : (after (step (State.reset.withFetchWord 24 0x1FFFF))).map (fun t => (t.crc, t.crcValid)) = some (0xFFFF#16, true) := by decide
theorem test_fetch_wire_first : (after (step (State.reset.withFetchWord 8 0x05))).map (fun t => t.rxEvt.length) = some 1 := by decide

/-! ### Witnesses: concrete states and operands that meet the hypotheses of each statement -/

theorem blk_inv : blk.Inv := ⟨by decide, by decide, by decide, fun _ _ => rfl, by decide⟩

theorem blkRx_inv : blkRx.Inv := by
  refine ⟨by decide, by decide, by decide, fun a ha => ?_, by decide⟩
  have h : 4 ≤ a := ha
  simp [blkRx, blk, Memory.read, Memory.unlisted, show a ≠ 0 by omega, show a ≠ 1 by omega]

theorem one_inv {t : Block} (h0 : t.params.instId = 0) (h : t.Inv) : (one t).Inv := by
  intro k u hu
  cases k with
  | zero => simp only [one, List.getElem?_cons_zero, Option.some.injEq] at hu; exact hu ▸ ⟨h0, h⟩
  | succ k => simp [one] at hu

theorem witness_addressed (t : Block) : (one t).insts[(one t).port]? = some t := rfl
theorem witness_DecodeOfEncodeIsTheRow : Instr.wellFormed (.reserved 0x20131#20) = true ∧ Instr.isComposite (.reserved 0x20131#20) = false := by decide
theorem witness_EncodeOfDecodeIsTheForm : Instr.wellFormed (.rxEscapedInvalid 0xA0#8) = true ∧
    encode (.rxEscapedInvalid 0xA0#8) = some (.wire .escaped 0xA0#8) := by decide
theorem witness_StepRunsThePresentedOperation :
    (one blk).input = [] ∧ ({ one blk with input := [.word 0 0x30000#20] } : State).input = .word 0 0x30000#20 :: [] ∧
    ({ one blk with input := [.op 0 (.txFrame [])] } : State).input = .op 0 (.txFrame []) :: [] ∧
    ({ one blk with input := [.reset] } : State).input = .reset :: [] := by decide
theorem witness_ResetEventResetsEveryCopy : ({ one blkRx with input := [.reset] } : State).input = .reset :: [] ∧
    ({ one blkRx with input := [.reset] } : State).insts[0]? = some blkRx := by decide
theorem witness_StateAfterReset : State.reset.insts[0]? = some (Block.reset (Config.params 0)) := rfl
theorem witness_ReservedWordsAreRefused : Cmd.op 0x0FFFF#20 = 0#4 ∧ 8#4 < Cmd.op 0x90000#20 := by decide
theorem witness_PortWithoutACopyFaults : (one blk).insts.length ≤ ({ one blk with port := 1 } : State).port ∧ ∀ w, Instr.crcRead ≠ .reserved w :=
  ⟨by decide, fun _ h => nomatch h⟩
theorem witness_UnseededEngineIsRefused : (one { blk with crcValid := false }).insts[0]? = some { blk with crcValid := false } := by decide
theorem witness_FramerOutOfOrderIsRefused : blkTx.txState = .txOpen ∧ blk.txState = .txIdle := by decide
theorem witness_RowOutOfContextIsRefused : blkRx.rxState ≠ .idle ∧ Instr.wellFormed (.rxIdleOther 0xA0#8) = false := by decide
theorem witness_SeededEngine : (one blk).insts[0]? = some blk ∧ blk.crcValid = true := by decide
theorem witness_IdleStartBeginsAFrame : (one blk).insts[0]? = some blk ∧ blk.rxState = .idle := by decide
theorem witness_IdleDiscardsAnyOtherByte : blk.rxState = .idle ∧ (0xF0#8 : Byte) ≠ 0xA0#8 ∧ (0x05#8 : Byte) ≠ 0xA0#8 := by decide
theorem witness_PrematureStartRestartsTheFrame : (one blkFull).insts[0]? = some blkFull ∧ blkFull.rxState = .receiving := by decide
theorem witness_EndDeliversTheBuffer : blkFull.rxState = .receiving ∧ (∀ a, a < blkFull.rxLen → (Memory.read blkFull.rxBuf a).isSome = true) ∧
    ∀ a, a < ({ blk with rxState := .receiving } : Block).rxLen → (Memory.read blk.rxBuf a).isSome = true := by decide
theorem witness_EscapeOpensAPair : (one blkFull).insts[0]? = some blkFull ∧ blkFull.rxState = .receiving := by decide
theorem witness_DataByteIsStored : ({ blkFull with rxLen := 3 } : Block).rxLen < blkFull.params.cap ∧ blkFull.rxState = .receiving ∧
    (0x06#8 : Byte) ≠ 0xA0#8 ∧ (0x06#8 : Byte) ≠ 0x05#8 ∧ (0x06#8 : Byte) ≠ 0xF0#8 := by decide
theorem witness_EscapePairIsStored (row : Instr) (code v : Byte)
    (h : (row, code, v) ∈ [(Instr.rxEscapedSubStart, 0x01#8, 0xA0#8), (.rxEscapedSubEnd, 0x02#8, 0x05#8), (.rxEscapedSubEscape, 0xF0#8, 0xF0#8)]) :
    ({ blkFull with rxState := .escaped, rxLen := 3 } : Block).rxLen < blkFull.params.cap ∧
    ((row = .rxEscapedSubStart ∧ code = 0x01#8 ∧ v = 0xA0#8) ∨ (row = .rxEscapedSubEnd ∧ code = 0x02#8 ∧ v = 0x05#8) ∨
      (row = .rxEscapedSubEscape ∧ code = 0xF0#8 ∧ v = 0xF0#8)) := by
  simp only [List.mem_cons, Prod.mk.injEq, List.not_mem_nil, or_false] at h
  exact ⟨by decide, h⟩
theorem witness_OverflowDropsTheFrame : blkFull.params.cap ≤ blkFull.rxLen ∧
    (blkFull.rxState = .receiving ∧ (0x15#8 : Byte) ≠ 0xA0#8 ∧ (0x15#8 : Byte) ≠ 0x05#8 ∧ (0x15#8 : Byte) ≠ 0xF0#8) ∧
    ({ blkFull with rxState := .escaped } : Block).rxState = .escaped := by decide
theorem witness_BadEscapeDropsTheFrame : ({ blkFull with rxState := .escaped } : Block).rxState = .escaped ∧
    (0xA0#8 : Byte) ≠ 0x01#8 ∧ (0xA0#8 : Byte) ≠ 0x02#8 ∧ (0xA0#8 : Byte) ≠ 0xF0#8 ∧
    (0x05#8 : Byte) ≠ 0x01#8 ∧ (0x05#8 : Byte) ≠ 0x02#8 ∧ (0x05#8 : Byte) ≠ 0xF0#8 := by decide
theorem witness_RxByteIsTotal : (one blkRx).insts[(one blkRx).port]? = some blkRx ∧ blkRx.Inv := ⟨rfl, blkRx_inv⟩
theorem witness_RxStreamIsItsBytes : (one blk).insts[(one blk).port]? = some blk ∧ blk.Inv := ⟨rfl, blk_inv⟩
theorem witness_DecodeOfEncodedFrame : blk.rxState = .idle ∧ [0xA0#8, 0x05#8, 0xF0#8, 0x11#8].length ≤ blk.params.cap := by decide
theorem witness_OverlongFrameIsDropped : blk.rxState = .idle ∧ blk.params.cap < [0x11#8, 0x12#8, 0x13#8, 0x14#8, 0xA0#8].length := by decide
theorem witness_FrameEncodeIsStuffing : (0x01#8 : Byte) ≠ 0xA0#8 ∧ (0x01#8 : Byte) ≠ 0x05#8 ∧ (0x01#8 : Byte) ≠ 0xF0#8 := by decide
/-- A unit of each of the four shapes: A0 F0 01 F0 02 F0 F0 11 05 (42_framer.md R125, example). -/
theorem witness_EncodingLengthAndTransparency : frameEncode [0xA0#8, 0x05#8, 0xF0#8, 0x11#8] =
    [0xA0#8] ++ [[0xF0#8, 0x01#8], [0xF0#8, 0x02#8], [0xF0#8, 0xF0#8], [0x11#8]].flatten ++ [0x05#8] := by decide
theorem witness_TxStartOpensAFrame : (one blk).insts[0]? = some blk ∧ blk.txState = .txIdle := by decide
theorem witness_TxByteEmitsTheStuffedByte (row : Instr) (d : Byte) (out : List Byte)
    (h : (row, d, out) ∈ [(Instr.txByteStartValued, 0xA0#8, [0xF0#8, 0x01#8]), (.txByteEndValued, 0x05#8, [0xF0#8, 0x02#8]),
      (.txByteEscapeValued, 0xF0#8, [0xF0#8, 0xF0#8]), (.txBytePlain 0x06#8, 0x06#8, [0x06#8])]) :
    blkTx.txState = .txOpen ∧
    ((row = .txByteStartValued ∧ d = 0xA0#8 ∧ out = [0xF0#8, 0x01#8]) ∨ (row = .txByteEndValued ∧ d = 0x05#8 ∧ out = [0xF0#8, 0x02#8]) ∨
      (row = .txByteEscapeValued ∧ d = 0xF0#8 ∧ out = [0xF0#8, 0xF0#8]) ∨
      (row = .txBytePlain d ∧ d ≠ 0xA0#8 ∧ d ≠ 0x05#8 ∧ d ≠ 0xF0#8 ∧ out = [d])) := by
  simp only [List.mem_cons, Prod.mk.injEq, List.not_mem_nil, or_false] at h
  rcases h with h | h | h | ⟨rfl, rfl, rfl⟩
  · exact ⟨rfl, .inl h⟩
  · exact ⟨rfl, .inr (.inl h)⟩
  · exact ⟨rfl, .inr (.inr (.inl h))⟩
  · exact ⟨rfl, .inr (.inr (.inr (by decide)))⟩
theorem witness_TxEndClosesTheFrame : (one blkTx).insts[0]? = some blkTx ∧ blkTx.txState = .txOpen := by decide
theorem witness_LeadingZerosAreInvisible : 3 ≤ 3 := by decide
theorem witness_FcsCheckComparesTheCrc : [0x12#8, 0x34#8].length < 3 ∧ [0x12#8] ≠ [] ∧
    compute 0#16 [0x12#8] = 0x32#8 ++ 0x73#8 ∧ compute 0#16 [0x12#8] ≠ 0x73#8 ++ 0x32#8 := by decide
theorem witness_SingleBitErrorIsDetected : 0 < [0xAA#8].length ∧ 7 < 8 := by decide
theorem witness_PacketArrivesEndToEnd : blk.txState = .txIdle ∧ [0xAA#8, 0x01#8] ≠ [] ∧ blk.rxState = .idle ∧ [0xAA#8, 0x01#8].length + 2 ≤ blk.params.cap := by decide
theorem witness_ReceiveErrorOfAnEvent :
    (Event.mk 0 .error .bufferOverflow 0 []).kind = .error ∧ fcsVerdict [0#8, 0#8] = .tooShort ∧
    fcsVerdict [0x12#8, 0#8, 0#8] = .crcMismatch ∧ fcsVerdict [0x12#8, 0x73#8, 0x32#8] = .ok [0x12#8] := by decide
theorem witness_StepKeepsTheInvariant : ∃ s s' : State, s.Inv ∧ (∀ t ∈ s.insts, ∀ e ∈ t.rxEvt, e.wf t.params) ∧
    (∀ t ∈ s.insts, t.sendsFrames) ∧ step s = .next s' := by
  refine ⟨{ one blkRx with input := [.word 0 0x50005#20] }, _, one_inv rfl blkRx_inv, ?_, ?_, rfl⟩
  · intro t ht e he
    simp only [one, List.mem_singleton] at ht
    subst ht
    simp [blkRx, blk] at he
  · intro t ht
    simp only [one, List.mem_singleton] at ht
    subst ht
    exact ⟨[], rfl⟩
theorem witness_ResetSatisfiesTheInvariants : State.reset.insts[0]? = some (Block.reset (Config.params 0)) := rfl
theorem witness_ParametersNeverChange : ∃ s', step { one blkRx with input := [.reset] } = .next s' := ⟨_, rfl⟩
theorem witness_StreamsOnlyGrow : ({ one blkRx with input := [.word 0 0x50005#20] } : State).input.head? ≠ some .reset ∧
    (∃ s', step { one blkRx with input := [.word 0 0x50005#20] } = .next s') ∧ blkRx.crcValid = true :=
  ⟨by decide, ⟨_, rfl⟩, rfl⟩
theorem witness_OperationLeavesOtherCopies : ∃ s', exec (.rxByte 0x05#8) (one blkRx) = .next s' := ⟨_, rfl⟩
theorem witness_UnitsDoNotTouchEachOther :
    (∃ s', exec (.crcByte 0#8) (one blkRx) = .next s' ∧ s'.insts[(one blkRx).port]?.isSome = true) ∧ Instr.drivesCrcOnly (.crcByte 0#8) = true ∧
    (∃ s', exec (.rxByte 0#8) (one blkRx) = .next s' ∧ s'.insts[(one blkRx).port]?.isSome = true) ∧ Instr.drivesDeframerOnly (.rxByte 0#8) = true ∧
    (∃ s', exec .txStart (one blkRx) = .next s' ∧ s'.insts[(one blkRx).port]?.isSome = true) ∧ Instr.drivesFramerOnly .txStart = true :=
  ⟨⟨_, rfl, rfl⟩, rfl, ⟨_, rfl, rfl⟩, rfl, ⟨_, rfl, rfl⟩, rfl⟩
theorem witness_DifferentCopiesCommute : ∃ s₁ s₂ : State, (0 : Nat) ≠ 1 ∧
    execAt 0 (.rxByte 0xA0#8) { insts := [blk, blkRx], port := 0, input := [] } = .next s₁ ∧ execAt 1 (.rxByte 0x05#8) s₁ = .next s₂ :=
  ⟨_, _, by decide, rfl, rfl⟩

end Sys2Proof.Tests
end

section
/-! The CRC engine (40_crc.md): what CRC.INIT does, and `compute` as a fold. -/

namespace Sys2Proof.Proofs

open Sys2Proof.Machine

/-- `compute` threads the accumulator through the bytes first to last, so the induction is over the bytes for every
seed. -/
theorem compute_eq_foldl (seed : Word16) (D : List Byte) : compute seed D = D.foldl crcUpdate seed := by
  induction D generalizing seed with
  | nil => rfl
  | cons d D ih => rw [compute_cons, List.foldl_cons, ih]

/-- Settles O13: on the addressed copy CRC.INIT is `Block.seedCrc`, which has no guard, so it completes in any state. -/
theorem crcInitLoadsTheSeed : Obligations.CrcInitLoadsTheSeed := by
  intro s t v ht
  have seeded : Block.meaning (.crcInit v) t = .next (t.seedCrc v) := rfl
  exact completesAs_of_meaning ht seeded

/-- Settles O18, by induction on the bytes. -/
theorem computeIsTheLeftFold : Obligations.ComputeIsTheLeftFold :=
  compute_eq_foldl

end Sys2Proof.Proofs
end

section
/-! The deframer (41_deframer.md): RX.BYTE is the row its state and byte select, and the two rows that only move the
state. -/

namespace Sys2Proof.Proofs

open Sys2Proof.Machine

/-- In its own state and for a byte of its class a row of RX.BYTE has its meaning. -/
theorem inRxRow_of_class {t : Block} {ctx : RxState} {ofClass : Bool} (hctx : t.rxState = ctx)
    (hclass : ofClass = true) (o : Out Block) : t.inRxRow ctx ofClass o = o :=
  hclass ▸ Block.inRxRow_of hctx o

/-- The dispatch of 41_deframer.md R90 is that of `decodeWire`: the row a byte selects is in its own state and the
byte in the row's class, so the row's guard holds and it does what RX.BYTE does. -/
theorem meaning_decodeWire (t : Block) (b : Byte) :
    Block.meaning (decodeWire t.rxState b) t = t.rxByte b := by
  cases hctx : t.rxState with
  | idle =>
    simp only [decodeWire, Block.rxByte, hctx]
    split_ifs with hstart
    · exact Block.inRxRow_of hctx _
    · exact inRxRow_of_class hctx (by simp [hstart]) _
  | receiving =>
    simp only [decodeWire, Block.rxByte, hctx]
    split_ifs with hstart hend hescape
    · exact Block.inRxRow_of hctx _
    · exact Block.inRxRow_of hctx _
    · exact Block.inRxRow_of hctx _
    · exact inRxRow_of_class hctx (by simp [isReservedByte, hstart, hend, hescape]) _
  | escaped =>
    simp only [decodeWire, Block.rxByte, unstuffed, hctx]
    split_ifs with hstart hend hescape
    · exact Block.inRxRow_of hctx _
    · exact Block.inRxRow_of hctx _
    · exact Block.inRxRow_of hctx _
    · exact inRxRow_of_class hctx (by simp [isSubCode, hstart, hend, hescape]) _

/-- At a port that has a copy RX.BYTE and the row its state and byte select answer the same. -/
theorem exec_rxByte_eq_row {s : State} {t : Block} (ht : s.insts[s.port]? = some t) (b : Byte) :
    exec (.rxByte b) s = exec (decodeWire t.rxState b) s := by
  rw [exec_of ht, exec_of ht, meaning_decodeWire]
  rfl

/-- A row with effect `u` completes with `u`, and so does RX.BYTE of a byte that selects the row. -/
theorem row_and_rxByte_completeAs {s : State} {t u : Block} {b : Byte} {row : Instr}
    (ht : s.insts[s.port]? = some t) (selected : decodeWire t.rxState b = row)
    (effect : Block.meaning row t = .next u) : completesAs row s u ∧ completesAs (.rxByte b) s u := by
  have rxByte_effect : t.rxByte b = .next u := by rw [← meaning_decodeWire, selected, effect]
  exact ⟨completesAs_of_meaning ht effect, completesAs_of_meaning ht rxByte_effect⟩

/-- Settles O33: the row by the dispatch, completion by the invariant, the frame and the events by what one wire byte
can do. -/
theorem rxByteIsTotal : Obligations.RxByteIsTotal := by
  intro s t b ht hinv
  obtain ⟨u, hu⟩ := Block.rxByte_total hinv b
  have move : t.RxMove u := Block.rxByte_move hu
  obtain ⟨-, hcrc, hvalid, htx, hout, -⟩ := move.others
  exact ⟨exec_rxByte_eq_row ht b, u, completesAs_of_meaning ht hu, ⟨hcrc, hvalid⟩, ⟨htx, hout⟩, move.events⟩

/-- Settles O24: START in `Idle` selects the row, and the row is `Block.beginFrame`. -/
theorem idleStartBeginsAFrame : Obligations.IdleStartBeginsAFrame := by
  intro s t ht hctx
  have selected : decodeWire t.rxState startByte = .rxIdleStart := by rw [hctx]; rfl
  have effect : Block.meaning .rxIdleStart t = .next t.beginFrame := Block.inRxRow_of hctx _
  exact row_and_rxByte_completeAs ht selected effect

/-- Settles O28: ESCAPE in `Receiving` selects the row, and the row is `Block.openEscape`, which looks at no length. -/
theorem escapeOpensAPair : Obligations.EscapeOpensAPair := by
  intro s t ht hctx
  have selected : decodeWire t.rxState escapeByte = .rxReceivingEscape := by rw [hctx]; rfl
  have effect : Block.meaning .rxReceivingEscape t = .next t.openEscape := Block.inRxRow_of hctx _
  exact row_and_rxByte_completeAs ht selected effect

end Sys2Proof.Proofs
end

section
/-! The framer (42_framer.md): the wire form of a byte sequence. -/

namespace Sys2Proof.Proofs

open Sys2Proof.Machine

/-- The first three rows of 30_encoding.md R51's table: a reserved value becomes ESCAPE and its substitution code. -/
theorem stuff_of_reserved :
    stuff startByte = [escapeByte, subStart] ∧ stuff endByte = [escapeByte, subEnd] ∧
      stuff escapeByte = [escapeByte, subEscape] :=
  ⟨rfl, rfl, rfl⟩

/-- The last row of 30_encoding.md R51's table: every other byte stands for itself. -/
theorem stuff_of_not_reserved {d : Byte} (hstart : d ≠ startByte) (hend : d ≠ endByte)
    (hescape : d ≠ escapeByte) : stuff d = [d] := by
  unfold stuff
  rw [if_neg hstart, if_neg hend, if_neg hescape]

/-- Settles O38: `frameEncode` joins the stuffed bytes with `flatMap`, and the table of R51 is the case split of
`stuff`. -/
theorem frameEncodeIsStuffing : Obligations.FrameEncodeIsStuffing := by
  have wireForm (D : List Byte) : frameEncode D = [0xA0#8] ++ (D.map stuff).flatten ++ [0x05#8] := by
    rw [← List.flatMap_def]
    rfl
  obtain ⟨startRow, endRow, escapeRow⟩ := stuff_of_reserved
  exact ⟨wireForm, startRow, endRow, escapeRow, fun _ => stuff_of_not_reserved⟩

end Sys2Proof.Proofs
end


section
/-! The frame check (43_fcs.md): the ReceiveError a consumer obtains for an event. -/

namespace Sys2Proof.Proofs

open Sys2Proof.Machine

/-- The ReceiveError of an ERROR event is the one it carries. -/
theorem receiveError_of_error {e : Event} (hkind : e.kind = .error) : e.receiveError = e.err := by
  rw [Event.receiveError, hkind]

/-- The ReceiveError of a FRAME event is that of the verdict on its data. -/
theorem receiveError_of_frame {e : Event} (hkind : e.kind = .frame) :
    e.receiveError = (fcsVerdict e.data).receiveError := by
  rw [Event.receiveError, hkind]

/-- Settles O50: an ERROR event answers its own error, and for a FRAME event each of the three verdicts selects its
ReceiveError (43_fcs.md R140). -/
theorem receiveErrorOfAnEvent : Obligations.ReceiveErrorOfAnEvent := by
  intro e
  refine ⟨receiveError_of_error, fun hframe => ?_⟩
  rw [receiveError_of_frame hframe]
  refine ⟨fun tooShort => ?_, fun mismatch => ?_, fun P ok => ?_⟩
  · rw [tooShort, Verdict.receiveError]
  · rw [mismatch, Verdict.receiveError]
  · rw [ok, Verdict.receiveError]

end Sys2Proof.Proofs
end

section
/-! The encodings (30_encoding.md): the rows of R53 by their masks, the row a word selects, and the two round trips. -/

namespace Sys2Proof.Proofs

open Sys2Proof.Machine

/-! ### A row's mask and match say what the fields hold -/

theorem Cmd.make_eq_make {op op' : BitVec 4} {arg arg' : Word16} :
    Cmd.make op arg = Cmd.make op' arg' ↔ op = op' ∧ arg = arg' := by
  refine ⟨fun h => ⟨?_, ?_⟩, fun ⟨hop, harg⟩ => by rw [hop, harg]⟩
  · simpa using congrArg Cmd.op h
  · simpa using congrArg Cmd.arg h

/-- A mask put together from its fields masks each field by itself. -/
theorem Cmd.and_make (w : Cmd) (opMask : BitVec 4) (argMask : Word16) :
    w &&& Cmd.make opMask argMask = Cmd.make (w.op &&& opMask) (w.arg &&& argMask) := by
  conv_lhs => rw [← Cmd.make_of_fields w]
  exact BitVec.and_append

theorem Cmd.arg_eq_append (w : Cmd) : w.arg = w.argHigh ++ w.argLow := by
  simp only [Cmd.arg, Cmd.argHigh, Cmd.argLow]
  exact (BitVec.extractLsb'_append_extractLsb'_eq_extractLsb' (start₁ := 0) (len₁ := 8) (len₂ := 8) rfl).symm

/-- The mask of a row with a word operand leaves the operation number. -/
theorem Cmd.wordMask_iff (w : Cmd) (op : BitVec 4) : w &&& 0xF0000#20 = Cmd.make op 0#16 ↔ w.op = op := by
  rw [show (0xF0000#20 : Cmd) = Cmd.make (BitVec.allOnes 4) 0#16 from rfl, Cmd.and_make, Cmd.make_eq_make,
    BitVec.and_allOnes, BitVec.and_zero, and_iff_left rfl]

/-- The mask of a row with a byte operand leaves the operation number and the high byte of the argument. -/
theorem Cmd.byteMask_iff (w : Cmd) (op : BitVec 4) :
    w &&& 0xFFF00#20 = Cmd.make op 0#16 ↔ w.op = op ∧ w.argHigh = 0#8 := by
  have masked : w.arg &&& (BitVec.allOnes 8 ++ 0#8) = w.argHigh ++ 0#8 := by
    rw [Cmd.arg_eq_append, BitVec.and_append, BitVec.and_allOnes, BitVec.and_zero]
  rw [show (0xFFF00#20 : Cmd) = Cmd.make (BitVec.allOnes 4) (BitVec.allOnes 8 ++ 0#8) from rfl, Cmd.and_make,
    Cmd.make_eq_make, BitVec.and_allOnes, masked, show (0#16 : Word16) = 0#8 ++ 0#8 from rfl, BitVec.append_left_inj]

/-- The mask of a row without operand leaves the whole word. -/
theorem Cmd.fullMask_iff (w : Cmd) (op : BitVec 4) :
    w &&& 0xFFFFF#20 = Cmd.make op 0#16 ↔ w.op = op ∧ w.arg = 0#16 := by
  rw [show (0xFFFFF#20 : Cmd) = Cmd.make (BitVec.allOnes 4) (BitVec.allOnes 16) from rfl, Cmd.and_make,
    Cmd.make_eq_make, BitVec.and_allOnes, BitVec.and_allOnes]

/-- The rows of 30_encoding.md R53 by their fields: what the literal masks and matches of the table ask of a word. -/
theorem Cmd.masks_iff_fields (w : Cmd) :
    (w &&& 0xF0000#20 = 0x10000#20 ↔ w.op = 0x1#4) ∧
    (w &&& 0xFFF00#20 = 0x20000#20 ↔ w.op = 0x2#4 ∧ w.argHigh = 0#8) ∧
    (w &&& 0xFFFFF#20 = 0x30000#20 ↔ w.op = 0x3#4 ∧ w.arg = 0#16) ∧
    (w &&& 0xFFFFF#20 = 0x40000#20 ↔ w.op = 0x4#4 ∧ w.arg = 0#16) ∧
    (w &&& 0xFFF00#20 = 0x50000#20 ↔ w.op = 0x5#4 ∧ w.argHigh = 0#8) ∧
    (w &&& 0xFFFFF#20 = 0x60000#20 ↔ w.op = 0x6#4 ∧ w.arg = 0#16) ∧
    (w &&& 0xFFF00#20 = 0x70000#20 ↔ w.op = 0x7#4 ∧ w.argHigh = 0#8) ∧
    (w &&& 0xFFFFF#20 = 0x80000#20 ↔ w.op = 0x8#4 ∧ w.arg = 0#16) :=
  ⟨Cmd.wordMask_iff w 0x1#4, Cmd.byteMask_iff w 0x2#4, Cmd.fullMask_iff w 0x3#4, Cmd.fullMask_iff w 0x4#4,
    Cmd.byteMask_iff w 0x5#4, Cmd.fullMask_iff w 0x6#4, Cmd.byteMask_iff w 0x7#4, Cmd.fullMask_iff w 0x8#4⟩

/-- The fields of a word that selects no row of 30_encoding.md R53. -/
def Cmd.FieldsOfNoRow (w : Cmd) : Prop :=
  ¬ w.op = 0x1#4 ∧ ¬ (w.op = 0x2#4 ∧ w.argHigh = 0#8) ∧ ¬ (w.op = 0x3#4 ∧ w.arg = 0#16) ∧
  ¬ (w.op = 0x4#4 ∧ w.arg = 0#16) ∧ ¬ (w.op = 0x5#4 ∧ w.argHigh = 0#8) ∧ ¬ (w.op = 0x6#4 ∧ w.arg = 0#16) ∧
  ¬ (w.op = 0x7#4 ∧ w.argHigh = 0#8) ∧ ¬ (w.op = 0x8#4 ∧ w.arg = 0#16)

theorem Cmd.matchesNoRow_iff (w : Cmd) : Cmd.matchesNoRow w = true ↔ Cmd.FieldsOfNoRow w := by
  obtain ⟨h1, h2, h3, h4, h5, h6, h7, h8⟩ := Cmd.masks_iff_fields w
  simp only [Cmd.matchesNoRow, Bool.and_eq_true, Bool.not_eq_true', beq_eq_false_iff_ne, ne_eq, and_assoc,
    h1, h2, h3, h4, h5, h6, h7, h8, Cmd.FieldsOfNoRow]

/-! ### The row a word selects -/

/-- All the decoder of words can answer: the word as reserved where its fields are no row's, and else one of the eight
rows. -/
theorem decodeWord_cases (w : Cmd) :
    (Cmd.FieldsOfNoRow w ∧ decodeWord w = .reserved w) ∨
    (w.op = 0x1#4 ∧ decodeWord w = .crcInit w.arg) ∨
    ((w.op = 0x2#4 ∧ w.argHigh = 0#8) ∧ decodeWord w = .crcByte w.argLow) ∨
    ((w.op = 0x3#4 ∧ w.arg = 0#16) ∧ decodeWord w = .crcRead) ∨
    ((w.op = 0x4#4 ∧ w.arg = 0#16) ∧ decodeWord w = .rxReset) ∨
    ((w.op = 0x5#4 ∧ w.argHigh = 0#8) ∧ decodeWord w = .rxByte w.argLow) ∨
    ((w.op = 0x6#4 ∧ w.arg = 0#16) ∧ decodeWord w = .txStart) ∨
    ((w.op = 0x7#4 ∧ w.argHigh = 0#8) ∧ decodeWord w = .txByte w.argLow) ∨
    ((w.op = 0x8#4 ∧ w.arg = 0#16) ∧ decodeWord w = .txEnd) := by
  unfold decodeWord
  split_ifs with h1 h2 h3 h4 h5 h6 h7 h8
  · exact .inr (.inl ⟨h1, rfl⟩)
  · exact .inr (.inr (.inl ⟨h2, rfl⟩))
  · exact .inr (.inr (.inr (.inl ⟨h3, rfl⟩)))
  · exact .inr (.inr (.inr (.inr (.inl ⟨h4, rfl⟩))))
  · exact .inr (.inr (.inr (.inr (.inr (.inl ⟨h5, rfl⟩)))))
  · exact .inr (.inr (.inr (.inr (.inr (.inr (.inl ⟨h6, rfl⟩))))))
  · exact .inr (.inr (.inr (.inr (.inr (.inr (.inr (.inl ⟨h7, rfl⟩)))))))
  · exact .inr (.inr (.inr (.inr (.inr (.inr (.inr (.inr ⟨h8, rfl⟩)))))))
  · exact .inl ⟨⟨h1, h2, h3, h4, h5, h6, h7, h8⟩, rfl⟩

/-- A word whose fields are no row's is reserved. -/
theorem decodeWord_of_no_row {w : Cmd} (h : Cmd.FieldsOfNoRow w) : decodeWord w = .reserved w := by
  obtain ⟨h1, h2, h3, h4, h5, h6, h7, h8⟩ := h
  simp only [decodeWord, h1, h2, h3, h4, h5, h6, h7, h8, if_false]

/-! ### The default rows of the sub-decodes (30_encoding.md R55 to R57) -/

theorem not_isReservedByte_iff {b : Byte} :
    (!isReservedByte b) = true ↔ b ≠ startByte ∧ b ≠ endByte ∧ b ≠ escapeByte := by
  simp [isReservedByte, and_assoc]

theorem not_isSubCode_iff {b : Byte} : (!isSubCode b) = true ↔ b ≠ subStart ∧ b ≠ subEnd ∧ b ≠ subEscape := by
  simp [isSubCode, and_assoc]

theorem wellFormed_rxIdleOther_iff {b : Byte} : (Instr.rxIdleOther b).wellFormed = true ↔ b ≠ startByte :=
  bne_iff_ne

theorem wellFormed_rxReceivingData_iff {b : Byte} :
    (Instr.rxReceivingData b).wellFormed = true ↔ b ≠ startByte ∧ b ≠ endByte ∧ b ≠ escapeByte := by
  simp [Instr.wellFormed, startByte, endByte, escapeByte, and_assoc]

theorem wellFormed_rxEscapedInvalid_iff {b : Byte} :
    (Instr.rxEscapedInvalid b).wellFormed = true ↔ b ≠ subStart ∧ b ≠ subEnd ∧ b ≠ subEscape := by
  simp [Instr.wellFormed, subStart, subEnd, subEscape, and_assoc]

theorem wellFormed_txBytePlain_iff {d : Byte} :
    (Instr.txBytePlain d).wellFormed = true ↔ d ≠ startByte ∧ d ≠ endByte ∧ d ≠ escapeByte :=
  wellFormed_rxReceivingData_iff

theorem decodeWire_idle_other {b : Byte} (hb : b ≠ startByte) : decodeWire .idle b = .rxIdleOther b := by
  rw [decodeWire, if_neg hb]

theorem decodeWire_receiving_data {b : Byte} (hb : b ≠ startByte ∧ b ≠ endByte ∧ b ≠ escapeByte) :
    decodeWire .receiving b = .rxReceivingData b := by
  rw [decodeWire, if_neg hb.1, if_neg hb.2.1, if_neg hb.2.2]

theorem decodeWire_escaped_invalid {b : Byte} (hb : b ≠ subStart ∧ b ≠ subEnd ∧ b ≠ subEscape) :
    decodeWire .escaped b = .rxEscapedInvalid b := by
  rw [decodeWire, if_neg hb.1, if_neg hb.2.1, if_neg hb.2.2]

theorem decodeTxData_plain {d : Byte} (hd : d ≠ startByte ∧ d ≠ endByte ∧ d ≠ escapeByte) :
    decodeTxData d = .txBytePlain d := by
  rw [decodeTxData, if_neg hd.1, if_neg hd.2.1, if_neg hd.2.2]

/-! ### The two round trips -/

/-- The coded form of a well-formed row decodes to that row, so a form is the form of at most one row. -/
theorem decode_of_encode {i : Instr} {f : Form} (hwf : i.wellFormed = true) (hf : encode i = some f) :
    decode f = i := by
  cases i <;> simp only [encode, Option.some.injEq, reduceCtorEq] at hf <;> subst hf
  case reserved w => exact decodeWord_of_no_row ((Cmd.matchesNoRow_iff w).mp hwf)
  case crcInit | crcByte | crcRead | rxReset | rxByte | txStart | txByte | txEnd => simp [decode, decodeWord]
  case rxIdleOther b => exact decodeWire_idle_other (wellFormed_rxIdleOther_iff.mp hwf)
  case rxReceivingData b => exact decodeWire_receiving_data (wellFormed_rxReceivingData_iff.mp hwf)
  case rxEscapedInvalid b => exact decodeWire_escaped_invalid (wellFormed_rxEscapedInvalid_iff.mp hwf)
  case txBytePlain d => exact decodeTxData_plain (wellFormed_txBytePlain_iff.mp hwf)
  all_goals rfl

/-- A row has a coded form exactly when it is no composite (30_encoding.md R60). -/
theorem encode_isNone (i : Instr) : (encode i).isNone = i.isComposite := by
  cases i <;> rfl

/-- Settles O2: a row that is no composite has a coded form, and a well-formed row is decoded from its form. -/
theorem decodeOfEncodeIsTheRow : Obligations.DecodeOfEncodeIsTheRow := by
  intro i hwf hi
  have coded : encode i ≠ none := fun hnone => by simp [← encode_isNone, hnone] at hi
  obtain ⟨f, hf⟩ := Option.ne_none_iff_exists'.mp coded
  exact ⟨f, hf, decode_of_encode hwf hf⟩

theorem Cmd.make_of_byteRow {w : Cmd} {op : BitVec 4} (h : w.op = op ∧ w.argHigh = 0#8) :
    Cmd.make op (byteArg w.argLow) = w :=
  h.1 ▸ Cmd.make_of_byte h.2

theorem Cmd.make_of_plainRow {w : Cmd} {op : BitVec 4} (h : w.op = op ∧ w.arg = 0#16) :
    Cmd.make op 0#16 = w := by
  rw [← h.1, ← h.2, Cmd.make_of_fields]

/-- The row of a command word is well formed and has the word as its form. -/
theorem encode_decodeWord (w : Cmd) :
    (decodeWord w).wellFormed = true ∧ encode (decodeWord w) = some (.command w) := by
  rcases decodeWord_cases w with ⟨h, hd⟩ | ⟨h, hd⟩ | ⟨h, hd⟩ | ⟨h, hd⟩ | ⟨h, hd⟩ | ⟨h, hd⟩ | ⟨h, hd⟩ | ⟨h, hd⟩ |
    ⟨h, hd⟩ <;> rw [hd]
  · exact ⟨(Cmd.matchesNoRow_iff w).mpr h, rfl⟩
  · exact ⟨rfl, by rw [encode, ← h, Cmd.make_of_fields]⟩
  · exact ⟨rfl, by rw [encode, Cmd.make_of_byteRow h]⟩
  · exact ⟨rfl, by rw [encode, Cmd.make_of_plainRow h]⟩
  · exact ⟨rfl, by rw [encode, Cmd.make_of_plainRow h]⟩
  · exact ⟨rfl, by rw [encode, Cmd.make_of_byteRow h]⟩
  · exact ⟨rfl, by rw [encode, Cmd.make_of_plainRow h]⟩
  · exact ⟨rfl, by rw [encode, Cmd.make_of_byteRow h]⟩
  · exact ⟨rfl, by rw [encode, Cmd.make_of_plainRow h]⟩

/-- The row of a wire byte is well formed and has the byte in its state as its form. -/
theorem encode_decodeWire (ctx : RxState) (b : Byte) :
    (decodeWire ctx b).wellFormed = true ∧ encode (decodeWire ctx b) = some (.wire ctx b) := by
  cases ctx <;> simp only [decodeWire]
  case idle =>
    split_ifs with hstart
    · exact ⟨rfl, hstart ▸ rfl⟩
    · exact ⟨wellFormed_rxIdleOther_iff.mpr hstart, rfl⟩
  case receiving =>
    split_ifs with hstart hend hescape
    · exact ⟨rfl, hstart ▸ rfl⟩
    · exact ⟨rfl, hend ▸ rfl⟩
    · exact ⟨rfl, hescape ▸ rfl⟩
    · exact ⟨wellFormed_rxReceivingData_iff.mpr ⟨hstart, hend, hescape⟩, rfl⟩
  case escaped =>
    split_ifs with hstart hend hescape
    · exact ⟨rfl, hstart ▸ rfl⟩
    · exact ⟨rfl, hend ▸ rfl⟩
    · exact ⟨rfl, hescape ▸ rfl⟩
    · exact ⟨wellFormed_rxEscapedInvalid_iff.mpr ⟨hstart, hend, hescape⟩, rfl⟩

/-- The row of a byte to be sent is well formed and has the byte as its form. -/
theorem encode_decodeTxData (d : Byte) :
    (decodeTxData d).wellFormed = true ∧ encode (decodeTxData d) = some (.txData d) := by
  unfold decodeTxData
  split_ifs with hstart hend hescape
  · exact ⟨rfl, hstart ▸ rfl⟩
  · exact ⟨rfl, hend ▸ rfl⟩
  · exact ⟨rfl, hescape ▸ rfl⟩
  · exact ⟨wellFormed_txBytePlain_iff.mpr ⟨hstart, hend, hescape⟩, rfl⟩

/-- Settles O3: existence by the three kinds of form, uniqueness because a form decodes to the row it was made from. -/
theorem encodeOfDecodeIsTheForm : Obligations.EncodeOfDecodeIsTheForm := by
  have coded (f : Form) : (decode f).wellFormed = true ∧ encode (decode f) = some f := by
    cases f with
    | command w => exact encode_decodeWord w
    | wire ctx b => exact encode_decodeWire ctx b
    | txData d => exact encode_decodeTxData d
  intro f
  obtain ⟨hwf, hf⟩ := coded f
  exact ⟨hwf, hf, fun i hi hif => (decode_of_encode hi hif).symm⟩

/-- Settles O4: the masks are asked of the fields, and in each case of the decoder's answer every row's match is
decided. -/
theorem wordSelectsRowByMaskAndMatch : Obligations.WordSelectsRowByMaskAndMatch := by
  intro w
  obtain ⟨h1, h2, h3, h4, h5, h6, h7, h8⟩ := Cmd.masks_iff_fields w
  rw [h1, h2, h3, h4, h5, h6, h7, h8, Cmd.matchesNoRow_iff, Cmd.FieldsOfNoRow]
  rcases decodeWord_cases w with ⟨h, hd⟩ | ⟨h, hd⟩ | ⟨h, hd⟩ | ⟨h, hd⟩ | ⟨h, hd⟩ | ⟨h, hd⟩ | ⟨h, hd⟩ | ⟨h, hd⟩ |
    ⟨h, hd⟩ <;> rw [hd]
  case inl =>
    obtain ⟨n1, n2, n3, n4, n5, n6, n7, n8⟩ := h
    simp only [reduceCtorEq, exists_false, n1, n2, n3, n4, n5, n6, n7, n8, not_false_eq_true, and_self]
  all_goals simp [h]

/-- Settles O1: each word, with its operation number in bits 19:16, decodes by computation. -/
theorem commandWordsOfTheSpecDecode : Obligations.CommandWordsOfTheSpecDecode := by
  unfold Obligations.CommandWordsOfTheSpecDecode
  decide

/-- An operation number of 0 or above 8 is no row's. -/
theorem Cmd.fieldsOfNoRow_of_op {w : Cmd} (h : w.op = 0#4 ∨ 8#4 < w.op) : Cmd.FieldsOfNoRow w := by
  have other (op : BitVec 4) (hop : op ≠ 0#4 ∧ op ≤ 8#4) : w.op ≠ op := by
    rintro rfl
    rcases h with h | h
    · exact hop.1 h
    · exact BitVec.not_le.mpr h hop.2
  exact ⟨other 0x1#4 (by decide), fun h => other 0x2#4 (by decide) h.1, fun h => other 0x3#4 (by decide) h.1,
    fun h => other 0x4#4 (by decide) h.1, fun h => other 0x5#4 (by decide) h.1, fun h => other 0x6#4 (by decide) h.1,
    fun h => other 0x7#4 (by decide) h.1, fun h => other 0x8#4 (by decide) h.1⟩

/-- Settles O8: the row of reserved words has one meaning, and no word with such an operation number has a row of its
own. -/
theorem reservedWordsAreRefused : Obligations.ReservedWordsAreRefused :=
  ⟨exec_reserved, fun _ h => decodeWord_of_no_row (Cmd.fieldsOfNoRow_of_op h)⟩

end Sys2Proof.Proofs
end

section
/-! Operations at a port: where they stop by name (00_scope.md section 5.2), and several of them executed one after the
other on the addressed copy (30_encoding.md R60). -/

namespace Sys2Proof.Proofs

open Sys2Proof.Machine

/-! ### Stops -/

/-- At a port that has a copy an operation that the copy refuses is refused. -/
theorem exec_refused {i : Instr} {s : State} {t : Block} {r : Refusal} (ht : s.insts[s.port]? = some t)
    (hr : Block.meaning i t = .refused r) : exec i s = .refused r := by
  rw [exec_of ht, hr, andThen_refused]

/-- Settles O9: every operation but a reserved word is one on the addressed copy, and there is none. -/
theorem portWithoutACopyFaults : Obligations.PortWithoutACopyFaults := by
  intro i s hport hi
  rw [exec_eq_onPort i s hi]
  exact State.onPort_none (List.getElem?_eq_none hport) _

/-- Settles O10: on an unseeded engine both operations are refused before they do anything. -/
theorem unseededEngineIsRefused : Obligations.UnseededEngineIsRefused := by
  intro s t d ht hvalid
  have noValue : t.crcValue = .refused .crcUnseeded := by simp [Block.crcValue, hvalid]
  exact ⟨exec_refused ht (Block.crcByte_unseeded hvalid d),
    exec_refused ht (by rw [Block.meaning, noValue, andThen_refused])⟩

/-- Settles O11: with a frame open TX.START refuses, and the composites that begin a frame with it; with none open every
other framer operation and row refuses. -/
theorem framerOutOfOrderIsRefused : Obligations.FramerOutOfOrderIsRefused := by
  intro s t d D ht
  constructor
  · intro hopen
    have start : t.txStart = .refused .txSequence := by rw [Block.txStart, hopen]
    have packet : t.txPacket D = .refused .txSequence := by
      rw [Block.txPacket_eq, Block.txFrame_open (by exact hopen)]
    exact ⟨exec_refused ht start, exec_refused ht (Block.txFrame_open hopen D), exec_refused ht packet⟩
  · intro hidle
    have stop : t.txEnd = .refused .txSequence := by rw [Block.txEnd, hidle]
    have row (c : Bool) (o : Out Block) := Block.inTxRow_idle hidle c o
    exact ⟨exec_refused ht (Block.txByte_idle hidle d), exec_refused ht stop, exec_refused ht (row _ _),
      exec_refused ht (row _ _), exec_refused ht (row _ _), exec_refused ht (row _ _)⟩

/-- Every row a wire byte selects is guarded by the state the byte was read in. -/
theorem meaning_decodeWire_other {t : Block} {ctx : RxState} (hctx : t.rxState ≠ ctx) (b : Byte) :
    Block.meaning (decodeWire ctx b) t = .refused .rowOutOfContext := by
  cases ctx <;> simp only [decodeWire] <;> split_ifs <;> exact Block.inRxRow_other hctx _ _

/-- What runs is a row of the table: an operand its row excludes fails the row's guard, in any state. -/
theorem wellFormed_of_meaning {i : Instr} {t u : Block} (h : Block.meaning i t = .next u) :
    i.wellFormed = true := by
  cases i
  case reserved w => exact absurd h (by simp [Block.meaning])
  case rxIdleOther b =>
    obtain ⟨-, hclass, -⟩ := Block.inRxRow_eq_next h
    exact wellFormed_rxIdleOther_iff.mpr (bne_iff_ne.mp hclass)
  case rxReceivingData b =>
    obtain ⟨-, hclass, -⟩ := Block.inRxRow_eq_next h
    exact wellFormed_rxReceivingData_iff.mpr (not_isReservedByte_iff.mp hclass)
  case rxEscapedInvalid b =>
    obtain ⟨-, hclass, -⟩ := Block.inRxRow_eq_next h
    exact wellFormed_rxEscapedInvalid_iff.mpr (not_isSubCode_iff.mp hclass)
  case txBytePlain d =>
    obtain ⟨-, hclass, -⟩ := Block.inTxRow_eq_next h
    exact wellFormed_txBytePlain_iff.mpr (not_isReservedByte_iff.mp hclass)
  all_goals rfl

/-- Settles O12: a row's guard fails in another state than its own, and the guard of an ill-formed term in every state. -/
theorem rowOutOfContextIsRefused : Obligations.RowOutOfContextIsRefused := by
  refine ⟨fun s t ctx b ht hctx => exec_refused ht (meaning_decodeWire_other hctx b), fun i s s' hi h => ?_⟩
  obtain ⟨t, u, -, hu, -⟩ := exec_eq_next h
  exact absurd (wellFormed_of_meaning hu) (by simp [hi])

/-! ### Several operations on the addressed copy -/

@[simp] theorem withInst_withInst (s : State) (t u : Block) : (s.withInst t).withInst u = s.withInst u := by
  simp [State.withInst]

theorem execAll_append (is js : List Instr) (s : State) :
    execAll (is ++ js) s = andThen (execAll is s) (execAll js) := by
  induction is generalizing s with
  | nil => rfl
  | cons i is ih =>
    simp only [List.cons_append, execAll, andThen_assoc]
    congr 1
    funext s'
    exact ih s'

@[simp] theorem execAll_singleton (i : Instr) (s : State) : execAll [i] s = exec i s :=
  andThen_self (exec i s)

/-- One operation per byte is `runEach` of the operation's meaning on the addressed copy. -/
theorem execAll_map {op : Byte → Instr} {s : State} {t : Block} (ht : s.insts[s.port]? = some t) (D : List Byte) :
    execAll (D.map op) s = andThen (runEach (fun d => Block.meaning (op d)) D t) fun u => .next (s.withInst u) := by
  induction D generalizing s t with
  | nil => simp [execAll, State.withInst_self ht]
  | cons d D ih =>
    rw [List.map_cons, execAll, exec_of ht, runEach_cons, andThen_assoc, andThen_assoc]
    congr 1
    funext u
    rw [andThen_next, ih (State.withInst_same ht u)]
    simp only [withInst_withInst]

/-- The expansion of a composite (30_encoding.md R60): a first operation, one operation per byte, a last one, where the
addressed copy answers `u`, then `v` and then `w`. -/
theorem execAll_expansion {first last : Instr} {op : Byte → Instr} {s : State} {t u v w : Block} {D : List Byte}
    (ht : s.insts[s.port]? = some t) (hfirst : Block.meaning first t = .next u)
    (hbytes : runEach (fun d => Block.meaning (op d)) D u = .next v) (hlast : Block.meaning last v = .next w) :
    execAll (first :: D.map op ++ [last]) s = .next (s.withInst w) := by
  have hu := State.withInst_same ht u
  rw [execAll_append, execAll, exec_of ht, hfirst, andThen_next, andThen_next, execAll_map hu, hbytes, andThen_next,
    andThen_next, execAll_singleton, withInst_withInst, exec_of (State.withInst_same ht v), hlast, andThen_next,
    withInst_withInst]

end Sys2Proof.Proofs
end

section
/-! The CRC engine (40_crc.md): the update is linear, it depends on each operand one to one, and it has a table form. -/

namespace Sys2Proof.Proofs

open Sys2Proof.Machine

/-! ### The shift steps (40_crc.md R73) -/

/-- The steps run from the first, and equally one more after the others. -/
theorem crcShifts_succ (k : Nat) (c : Word16) : crcShifts (k + 1) c = crcShift (crcShifts k c) := by
  induction k generalizing c with
  | zero => rfl
  | succ k ih => rw [crcShifts, ih, crcShifts]

theorem crcShift_xor (a b : Word16) : crcShift (a ^^^ b) = crcShift a ^^^ crcShift b := by
  simp only [crcShift, BitVec.getLsbD_xor, BitVec.shiftLeft_xor_distrib]
  cases a.getLsbD 15 <;> cases b.getLsbD 15
  · rfl
  · simp [BitVec.xor_assoc]
  · simp only [Bool.xor_false, if_true, Bool.false_eq_true, if_false]
    ac_rfl
  · simp only [Bool.xor_self, Bool.false_eq_true, if_false, if_true]
    rw [show a <<< 1 ^^^ crcPoly ^^^ (b <<< 1 ^^^ crcPoly) = a <<< 1 ^^^ b <<< 1 ^^^ (crcPoly ^^^ crcPoly) by ac_rfl,
      BitVec.xor_self, BitVec.xor_zero]

theorem crcShifts_xor (k : Nat) (a b : Word16) : crcShifts k (a ^^^ b) = crcShifts k a ^^^ crcShifts k b := by
  induction k generalizing a b with
  | zero => rfl
  | succ k ih => rw [crcShifts, crcShift_xor, ih, crcShifts, crcShifts]

/-- Only the zero word is shifted to zero: bit 0 of the polynomial is 1, and a left shift brings in a 0. -/
theorem eq_zero_of_crcShift_eq_zero {c : Word16} (h : crcShift c = 0#16) : c = 0#16 := by
  unfold crcShift at h
  split at h
  case isTrue =>
    have bit0 : (c <<< 1 ^^^ crcPoly).getLsbD 0 = true := by simp [crcPoly]
    rw [h] at bit0
    exact absurd bit0 (by simp)
  case isFalse htop =>
    have hmul : c.toNat * 2 % 65536 = 0 := by
      simpa [BitVec.toNat_shiftLeft, Nat.shiftLeft_eq] using congrArg BitVec.toNat h
    have hlow : c.toNat < 32768 := by
      rw [← BitVec.msb_eq_getLsbD_last, BitVec.msb_eq_decide] at htop
      simpa using htop
    exact BitVec.eq_of_toNat_eq (by simp; omega)

theorem crcShift_injective : Function.Injective crcShift := by
  intro a b h
  have hz : crcShift (a ^^^ b) = 0#16 := by rw [crcShift_xor, h, BitVec.xor_self]
  exact BitVec.xor_eq_zero_iff.mp (eq_zero_of_crcShift_eq_zero hz)

theorem crcShifts_injective (k : Nat) : Function.Injective (crcShifts k) := by
  induction k with
  | zero => exact fun _ _ h => h
  | succ k ih => exact fun _ _ h => crcShift_injective (ih h)

/-- While the bits shifted out are 0 the steps are a plain shift. -/
theorem crcShifts_of_small (k : Nat) (c : Word16) (h : c.toNat * 2 ^ k < 65536) : crcShifts k c = c <<< k := by
  induction k generalizing c with
  | zero => simp [crcShifts]
  | succ k ih =>
    have hk : 1 ≤ 2 ^ k := Nat.one_le_two_pow
    have hc : c.toNat < 32768 := by rw [pow_succ] at h; nlinarith
    have noCarry : c.getLsbD 15 = false := by
      rw [← BitVec.msb_eq_getLsbD_last, BitVec.msb_eq_decide]
      simpa using hc
    have doubled : (c <<< 1).toNat = c.toNat * 2 := by
      rw [BitVec.toNat_shiftLeft, Nat.shiftLeft_eq]; omega
    rw [crcShifts, crcShift, noCarry, if_neg Bool.false_ne_true, ih _ (by rw [doubled]; rw [pow_succ] at h; linarith),
      ← BitVec.shiftLeft_add, Nat.add_comm]

/-! ### The update -/

/-- The accumulator and the byte in its high byte enter the update together (40_crc.md R73). -/
theorem crcUpdate_eq (c : Word16) (d : Byte) : crcUpdate c d = crcShifts 8 (c ^^^ (d ++ 0#8)) := rfl

theorem crcUpdate_xor (a b : Word16) (d e : Byte) :
    crcUpdate (a ^^^ b) (d ^^^ e) = crcUpdate a d ^^^ crcUpdate b e := by
  have entry : (d ^^^ e) ++ 0#8 = (d ++ 0#8) ^^^ (e ++ 0#8) := by rw [BitVec.xor_append, BitVec.xor_self]
  rw [crcUpdate_eq, entry, crcUpdate_eq, crcUpdate_eq, ← crcShifts_xor]
  congr 1
  ac_rfl

@[simp] theorem crcUpdate_zero : crcUpdate 0#16 0#8 = 0#16 := by decide

theorem crcUpdate_injective_accumulator (d : Byte) : Function.Injective fun c => crcUpdate c d :=
  fun _ _ h => (BitVec.xor_left_inj _).mp (crcShifts_injective 8 h)

theorem crcUpdate_injective_byte (c : Word16) : Function.Injective (crcUpdate c) :=
  fun d e h => (BitVec.append_left_inj (s₁ := d) (s₂ := e) 0#8).mp
    ((BitVec.xor_right_inj c).mp (crcShifts_injective 8 h))

/-- A word is its high byte and its low byte. -/
theorem highByte_append_lowByte (c : Word16) : highByte c ++ lowByte c = c :=
  BitVec.extractLsb'_append_extractLsb' (w := 8) (len := 8) (x := c)

theorem shiftLeft_eight (c : Word16) : (0#8 ++ lowByte c : Word16) <<< 8 = c <<< 8 := by
  have low : (0#8 ++ lowByte c : Word16).toNat = c.toNat % 256 :=
    (byteArg_toNat (lowByte c)).trans (by simp [lowByte, BitVec.extractLsb'_toNat])
  apply BitVec.eq_of_toNat_eq
  rw [BitVec.toNat_shiftLeft, BitVec.toNat_shiftLeft, low, Nat.shiftLeft_eq, Nat.shiftLeft_eq]
  omega

/-- The low byte is shifted out of reach of the polynomial; the high byte meets the byte fed in (40_crc.md R75). -/
theorem crcUpdate_table (c : Word16) (d : Byte) :
    crcUpdate c d = (c <<< 8) ^^^ crcUpdate 0#16 (highByte c ^^^ d) := by
  have parts : c ^^^ (d ++ 0#8) = (0#8 ++ lowByte c) ^^^ ((highByte c ^^^ d) ++ 0#8) := by
    conv_lhs => rw [← highByte_append_lowByte c]
    rw [BitVec.xor_append, BitVec.xor_append, BitVec.zero_xor, BitVec.xor_zero]
  have small : (0#8 ++ lowByte c : Word16).toNat * 2 ^ 8 < 65536 := by
    have := (byteArg_toNat (lowByte c)).trans_lt (lowByte c).isLt
    unfold byteArg at this
    omega
  rw [crcUpdate_eq, parts, crcShifts_xor, crcShifts_of_small 8 _ small, shiftLeft_eight, crcUpdate_eq,
    BitVec.zero_xor]

/-- Settles O14: on a seeded engine the operation is `Block.setCrc` of the update. -/
theorem crcByteUpdatesTheAccumulator : Obligations.CrcByteUpdatesTheAccumulator :=
  fun _ _ d ht hvalid => completesAs_of_meaning ht (Block.crcByte_seeded hvalid d)

/-- Settles O15: on a seeded engine the value read is the accumulator. -/
theorem crcReadReturnsTheAccumulator : Obligations.CrcReadReturnsTheAccumulator := by
  intro s t ht hvalid
  have value : t.crcValue = .next t.crc := by simp [Block.crcValue, hvalid]
  have effect : Block.meaning .crcRead t = .next (t.returns (.word t.crc)) := by
    rw [Block.meaning, value, andThen_next]
  exact completesAs_of_meaning ht effect

/-- Settles O16: the sequence is that of the shift steps from the accumulator with the byte in its high byte. -/
theorem crcUpdateIsEightShiftSteps : Obligations.CrcUpdateIsEightShiftSteps := by
  intro c d
  have entry : d ++ 0#8 = d.setWidth 16 <<< 8 := by
    have := d.isLt
    apply BitVec.eq_of_toNat_eq
    rw [BitVec.toNat_append, BitVec.toNat_shiftLeft]
    simp [Nat.shiftLeft_eq]
    omega
  refine ⟨fun k => crcShifts k (c ^^^ (d ++ 0#8)), congrArg (c ^^^ ·) entry, fun k _ => ?_, crcUpdate_eq c d⟩
  simp only [crcShifts_succ, crcShift, crcPoly, BitVec.msb_eq_getLsbD_last]

/-- Settles O17: the table form, `highByte` being the bits 15 to 8. -/
theorem crcUpdateTableForm : Obligations.CrcUpdateTableForm :=
  crcUpdate_table

/-- Settles O22: the check values of both seeds and the table entries, by running the eight shift steps on
each byte. -/
theorem crcCheckValues : Obligations.CrcCheckValues := by
  refine ⟨rfl, rfl, ?_, ?_, ?_, ?_, ?_⟩ <;> simp [crcUpdate, crcShifts, crcShift, crcPoly]

/-! ### Sequences of bytes (40_crc.md R77) -/

theorem compute_append (v : Word16) (D E : List Byte) : compute v (D ++ E) = compute (compute v D) E := by
  rw [compute_eq_foldl, compute_eq_foldl, compute_eq_foldl, List.foldl_append]

theorem compute_xor_seed (v w : Word16) (D : List Byte) :
    compute (v ^^^ w) D = compute v D ^^^ compute w (List.replicate D.length 0#8) := by
  induction D generalizing v w with
  | nil => rfl
  | cons d D ih =>
    have update := crcUpdate_xor v w d 0#8
    rw [BitVec.xor_zero] at update
    rw [compute_cons, update, ih, compute_cons, List.length_cons, List.replicate_succ, compute_cons]

theorem compute_injective_seed (D : List Byte) : Function.Injective fun v => compute v D := by
  induction D with
  | nil => exact fun _ _ h => h
  | cons d D ih => exact fun _ _ h => crcUpdate_injective_accumulator d (ih h)

@[simp] theorem compute_zero_replicate (n : Nat) : compute 0#16 (List.replicate n 0#8) = 0#16 := by
  induction n with
  | zero => rfl
  | succ n ih => rw [List.replicate_succ, compute_cons, crcUpdate_zero, ih]

/-- Feeding an accumulator its own two bytes, high byte first, leaves zero: in the table form each of them meets its
like, and the accumulator is shifted out. -/
theorem compute_own_bytes (c : Word16) : compute c [highByte c, lowByte c] = 0#16 := by
  have first : crcUpdate c (highByte c) = c <<< 8 := by
    rw [crcUpdate_table, BitVec.xor_self, crcUpdate_zero, BitVec.xor_zero]
  have shifted : highByte (c <<< 8) = lowByte c := by
    apply BitVec.eq_of_toNat_eq
    simp only [highByte, lowByte, BitVec.extractLsb'_toNat, BitVec.toNat_shiftLeft, Nat.shiftLeft_eq,
      Nat.shiftRight_eq_div_pow]
    omega
  have gone : c <<< 8 <<< 8 = 0#16 := by
    rw [← BitVec.shiftLeft_add]
    exact BitVec.shiftLeft_eq_zero (by decide)
  rw [compute_cons, first, compute_cons, crcUpdate_table, shifted, BitVec.xor_self, crcUpdate_zero, gone]
  rfl

/-- Settles O19: chaining is the fold's, linearity that of the update. -/
theorem computeChainsAndIsLinear : Obligations.ComputeChainsAndIsLinear :=
  ⟨compute_append, crcUpdate_xor, compute_xor_seed⟩

/-- Settles O20, by chaining: the accumulator is fed its own bytes. -/
theorem bigEndianResidueIsZero : Obligations.BigEndianResidueIsZero := by
  intro v D
  rw [compute_append]
  exact compute_own_bytes (compute v D)

/-- Settles O21: zero bytes keep the accumulator 0, so that the CRC of zeros is 0, as the two bytes received are. -/
theorem leadingZerosAreInvisible : Obligations.LeadingZerosAreInvisible := by
  refine ⟨fun n D => by rw [compute_append, compute_zero_replicate], fun n hn => ?_⟩
  have payload : payloadOf (List.replicate n 0#8) = List.replicate (n - 2) 0#8 := by simp [payloadOf]
  have received : receivedFcs (List.replicate n 0#8) = 0#16 := by
    simp [receivedFcs, List.getD_eq_getElem?_getD, show n - 1 < n by omega,
      show n - 2 < n by omega]
  have longEnough : ¬ (List.replicate n 0#8).length < fcsMinLen := by
    rw [List.length_replicate, fcsMinLen]; omega
  rw [fcsVerdict, if_neg longEnough, verdictOf, payload, received, fcsSeed, compute_zero_replicate, if_pos rfl]

/-- Settles O23: the composite by what it leaves and reads; each of its primitives answers a next state, since
CRC.INIT has seeded the engine. -/
theorem crcComputeIsItsExpansion : Obligations.CrcComputeIsItsExpansion := by
  intro s t v D ht
  have composite : Block.meaning (.crcCompute v D) t =
      .next ((t.seedCrc (compute v D)).returns (.word (compute v D))) := by
    rw [Block.meaning, Block.crcCompute_eq, andThen_next]
  refine ⟨completesAs_of_meaning ht composite, ?_⟩
  have fed := Block.runEach_crcByte (t := t.seedCrc v) rfl D
  rw [exec_of ht, composite, andThen_next]
  exact execAll_expansion (op := .crcByte) (last := .crcRead) ht rfl fed rfl

end Sys2Proof.Proofs
end

section
/-! The deframer (41_deframer.md): what each wire byte does in each state, and what a whole encoded frame does. -/

namespace Sys2Proof.Proofs

open Sys2Proof.Machine

/-! ### Storing a byte (41_deframer.md R99) -/

theorem append_of_lt {t : Block} (hcap : t.rxLen < t.params.cap) (v : Byte) :
    t.append v =
      { t with rxBuf := Memory.write t.rxBuf t.rxLen v, rxLen := t.rxLen + 1, rxState := .receiving } := by
  rw [Block.append, if_pos hcap]
  rfl

theorem append_of_le {t : Block} (hcap : t.params.cap ≤ t.rxLen) (v : Byte) :
    t.append v =
      { t with rxEvt := t.rxEvt ++ [t.errorEvent .bufferOverflow], rxLen := 0, rxState := .idle } := by
  rw [Block.append, if_neg (Nat.not_lt.mpr hcap), Block.raiseRxError_overflow]

/-- The decoded byte of a pair is stored, or dropped, as the byte itself would be. -/
theorem append_openEscape (t : Block) (v : Byte) : t.openEscape.append v = t.append v := by
  unfold Block.append
  split <;> rename_i hcap
  · rw [if_pos (show t.rxLen < t.params.cap from hcap)]; rfl
  · rw [if_neg (show ¬ t.rxLen < t.params.cap from hcap)]; rfl

/-! ### One wire byte in each state (41_deframer.md section 7) -/

theorem rxByte_idle_start {t : Block} (hctx : t.rxState = .idle) : t.rxByte startByte = .next t.beginFrame := by
  simp [Block.rxByte, hctx]

theorem rxByte_idle_other {t : Block} (hctx : t.rxState = .idle) {b : Byte} (hb : b ≠ startByte) :
    t.rxByte b = .next t := by
  simp [Block.rxByte, hctx, hb]

theorem rxByte_receiving_start {t : Block} (hctx : t.rxState = .receiving) :
    t.rxByte startByte = .next t.prematureStart := by
  simp [Block.rxByte, hctx]

theorem rxByte_receiving_end {t : Block} (hctx : t.rxState = .receiving) : t.rxByte endByte = t.completeFrame := by
  rw [Block.rxByte, hctx]
  rfl

theorem rxByte_receiving_escape {t : Block} (hctx : t.rxState = .receiving) :
    t.rxByte escapeByte = .next t.openEscape := by
  rw [Block.rxByte, hctx]
  rfl

theorem rxByte_receiving_data {t : Block} (hctx : t.rxState = .receiving) {b : Byte} (hstart : b ≠ startByte)
    (hend : b ≠ endByte) (hescape : b ≠ escapeByte) : t.rxByte b = .next (t.append b) := by
  simp [Block.rxByte, hctx, hstart, hend, hescape]

theorem rxByte_escaped_code {t : Block} (hctx : t.rxState = .escaped) {b v : Byte} (hv : unstuffed b = some v) :
    t.rxByte b = .next (t.append v) := by
  simp [Block.rxByte, hctx, hv]

theorem rxByte_escaped_invalid {t : Block} (hctx : t.rxState = .escaped) {b : Byte} (hb : unstuffed b = none) :
    t.rxByte b = .next t.badEscape := by
  simp [Block.rxByte, hctx, hb]

theorem unstuffed_eq_none {b : Byte} (hstart : b ≠ subStart) (hend : b ≠ subEnd) (hescape : b ≠ subEscape) :
    unstuffed b = none := by
  simp [unstuffed, hstart, hend, hescape]

/-! ### The rows with their byte -/

/-- What RX.BYTE of a byte does, the row the byte selects does too. -/
theorem row_and_rxByte_of_rxByte {s : State} {t u : Block} {b : Byte} {row : Instr}
    (ht : s.insts[s.port]? = some t) (selected : decodeWire t.rxState b = row) (effect : t.rxByte b = .next u) :
    completesAs row s u ∧ completesAs (.rxByte b) s u :=
  row_and_rxByte_completeAs ht selected (by rw [← selected, meaning_decodeWire, effect])

/-- Settles O25: the row's effect is the copy itself, and putting it back changes nothing. -/
theorem idleDiscardsAnyOtherByte : Obligations.IdleDiscardsAnyOtherByte := by
  intro s t b ht hctx (hb : b ≠ startByte)
  have selected : decodeWire t.rxState b = .rxIdleOther b := by rw [hctx, decodeWire_idle_other hb]
  have discarded : exec (.rxByte b) s = .next s := by
    rw [exec_of ht, Block.meaning, rxByte_idle_other hctx hb, andThen_next, State.withInst_self ht]
  exact ⟨by rw [← selected, ← exec_rxByte_eq_row ht, discarded], discarded⟩

theorem beginFrame_of_receiving {t : Block} (hctx : t.rxState = .receiving) : t.beginFrame = t.setRxLen 0 := by
  rw [Block.beginFrame, ← hctx]
  rfl

/-- Settles O26: the event of a premature start is the flag's, the restart is not. -/
theorem prematureStartRestartsTheFrame : Obligations.PrematureStartRestartsTheFrame := by
  intro s t ht hctx
  have selected : decodeWire t.rxState startByte = .rxReceivingStart := by rw [hctx]; rfl
  obtain ⟨row, rxByte⟩ := row_and_rxByte_of_rxByte ht selected (rxByte_receiving_start hctx)
  refine ⟨t.prematureStart, row, rxByte, ?_⟩
  cases hflag : t.params.pstartFlag <;> simp only [Block.prematureStart, hflag, if_true, Bool.false_eq_true, if_false]
  · exact beginFrame_of_receiving hctx
  · exact beginFrame_of_receiving (t := t.raiseRxError .prematureStart) hctx

/-- Settles O27: since every byte below the length has been stored, END finds its copy. -/
theorem endDeliversTheBuffer : Obligations.EndDeliversTheBuffer := by
  intro s t ht hctx hstored
  obtain ⟨data, hdata⟩ := Memory.copyFirst_isSome t.rxBuf t.rxLen hstored
  obtain ⟨hlen, hget⟩ := Memory.copyFirst_spec hdata
  have selected : decodeWire t.rxState endByte = .rxReceivingEnd := by rw [hctx]; rfl
  have effect : t.rxByte endByte = .next ((t.emitRx (t.frameEvent data)).setRxState .idle) := by
    rw [rxByte_receiving_end hctx, Block.completeFrame, hdata]
  obtain ⟨row, rxByte⟩ := row_and_rxByte_of_rxByte ht selected effect
  exact ⟨data, _, hlen, hget, row, rxByte, rfl⟩

/-- Settles O29: a DATA byte is appended, and under capacity that is a store at the length. -/
theorem dataByteIsStored : Obligations.DataByteIsStored := by
  intro s t b ht hctx (hstart : b ≠ startByte) (hend : b ≠ endByte) (hescape : b ≠ escapeByte) hcap
  have selected : decodeWire t.rxState b = .rxReceivingData b := by
    rw [hctx, decodeWire_receiving_data ⟨hstart, hend, hescape⟩]
  obtain ⟨row, rxByte⟩ := row_and_rxByte_of_rxByte ht selected (rxByte_receiving_data hctx hstart hend hescape)
  refine ⟨Memory.write t.rxBuf t.rxLen b, t.append b, fun a => Memory.read_write _ _ a b, row, rxByte, ?_⟩
  rw [append_of_lt hcap, ← hctx]

/-- Settles O30: a valid code appends the byte it stands for, and under capacity that is a store at the length. -/
theorem escapePairIsStored : Obligations.EscapePairIsStored := by
  intro s t ht hctx hcap row code v hrow
  obtain ⟨selected, hcode⟩ : decodeWire t.rxState code = row ∧ unstuffed code = some v := by
    rw [hctx]
    rcases hrow with ⟨rfl, rfl, rfl⟩ | ⟨rfl, rfl, rfl⟩ | ⟨rfl, rfl, rfl⟩ <;> exact ⟨rfl, rfl⟩
  obtain ⟨row, rxByte⟩ := row_and_rxByte_of_rxByte ht selected (rxByte_escaped_code hctx hcode)
  exact ⟨_, t.append v, fun a => Memory.read_write _ _ a v, row, rxByte, append_of_lt hcap v⟩

/-- Settles O31: the byte, or the one a valid code stands for, is appended, and at capacity that drops the frame. -/
theorem overflowDropsTheFrame : Obligations.OverflowDropsTheFrame := by
  intro s t b ht hcap hb
  have effect : ∃ v, t.rxByte b = .next (t.append v) := by
    rcases hb with ⟨hctx, hstart, hend, hescape⟩ | ⟨hctx, rfl | rfl | rfl⟩
    · exact ⟨b, rxByte_receiving_data hctx hstart hend hescape⟩
    · exact ⟨startByte, rxByte_escaped_code hctx rfl⟩
    · exact ⟨endByte, rxByte_escaped_code hctx rfl⟩
    · exact ⟨escapeByte, rxByte_escaped_code hctx rfl⟩
  obtain ⟨v, effect⟩ := effect
  obtain ⟨row, rxByte⟩ := row_and_rxByte_of_rxByte ht rfl effect
  exact ⟨t.append v, row, rxByte, append_of_le hcap v⟩

/-- Settles O32: a byte that is no substitution code raises the error, which looks at no length. -/
theorem badEscapeDropsTheFrame : Obligations.BadEscapeDropsTheFrame := by
  intro s t b ht hctx (hstart : b ≠ subStart) (hend : b ≠ subEnd) (hescape : b ≠ subEscape)
  have selected : decodeWire t.rxState b = .rxEscapedInvalid b := by
    rw [hctx, decodeWire_escaped_invalid ⟨hstart, hend, hescape⟩]
  have effect := rxByte_escaped_invalid hctx (unstuffed_eq_none hstart hend hescape)
  obtain ⟨row, rxByte⟩ := row_and_rxByte_of_rxByte ht selected effect
  exact ⟨t.badEscape, row, rxByte, Block.raiseRxError_badEscape t⟩

/-- Settles O34: RX.RESET sets the two registers in any state. -/
theorem rxResetReturnsToIdle : Obligations.RxResetReturnsToIdle := by
  intro s t ht
  have effect : Block.meaning .rxReset t = .next ((t.setRxState .idle).setRxLen 0) := rfl
  exact completesAs_of_meaning ht effect

/-! ### Sequences of wire bytes (41_deframer.md R106) -/

/-- RX.STREAM is total on copies that satisfy the invariant, since each byte keeps it. -/
theorem rxStream_total {t : Block} (ht : t.Inv) (W : List Byte) : ∃ u, t.rxStream W = .next u := by
  induction W generalizing t with
  | nil => exact ⟨t, rfl⟩
  | cons b W ih =>
    obtain ⟨v, hv⟩ := Block.rxByte_total ht b
    obtain ⟨u, hu⟩ := ih ((Block.rxByte_move hv).inv ht)
    exact ⟨u, by rw [Block.rxStream, runEach_cons, hv, andThen_next]; exact hu⟩

/-- One row takes no event back. -/
theorem rxMove_events_grow {t u : Block} (h : t.RxMove u) : ∃ es, u.rxEvt = t.rxEvt ++ es := by
  rcases h.events with hsame | ⟨e, he⟩
  · exact ⟨[], by rw [hsame, List.append_nil]⟩
  · exact ⟨[e], he⟩

/-- No sequence of wire bytes takes an event back. -/
theorem rxStream_events_grow {t u : Block} {W : List Byte} (h : t.rxStream W = .next u) :
    ∃ es, u.rxEvt = t.rxEvt ++ es := by
  refine Block.rxStream_keeps (P := fun u => ∃ es, u.rxEvt = t.rxEvt ++ es) ?_ ⟨[], by simp⟩ h
  rintro v w ⟨es, hes⟩ hmove
  obtain ⟨fs, hfs⟩ := rxMove_events_grow hmove
  exact ⟨es ++ fs, by rw [hfs, hes, List.append_assoc]⟩

/-- Two copies are the same but for the deframer: what `Block.RxMove.others` says of a move. -/
def sameOutsideDeframer (t u : Block) : Prop :=
  u.params = t.params ∧ u.crc = t.crc ∧ u.crcValid = t.crcValid ∧ u.txState = t.txState ∧
  u.txOut = t.txOut ∧ u.results = t.results

theorem sameOutsideDeframer_trans {t u v : Block} (htu : sameOutsideDeframer t u) (huv : sameOutsideDeframer u v) :
    sameOutsideDeframer t v := by
  obtain ⟨hp, hc, hv, hx, ho, hr⟩ := htu
  obtain ⟨hp', hc', hv', hx', ho', hr'⟩ := huv
  exact ⟨hp'.trans hp, hc'.trans hc, hv'.trans hv, hx'.trans hx, ho'.trans ho, hr'.trans hr⟩

/-- No sequence of wire bytes touches what is not the deframer's. -/
theorem rxStream_others {t u : Block} {W : List Byte} (h : t.rxStream W = .next u) : sameOutsideDeframer t u :=
  Block.rxStream_keeps (P := sameOutsideDeframer t) (fun _ _ hv hmove => sameOutsideDeframer_trans hv hmove.others)
    ⟨rfl, rfl, rfl, rfl, rfl, rfl⟩ h

/-- RX.STREAM completes as its bytes do, with the events they emitted as its result. -/
theorem rxStream_completesAs {s : State} {t u : Block} {W : List Byte} {es : List Event}
    (ht : s.insts[s.port]? = some t) (hu : t.rxStream W = .next u) (hes : u.rxEvt = t.rxEvt ++ es) :
    completesAs (.rxStream W) s { u with results := t.results ++ [.events es] } := by
  obtain ⟨-, -, -, -, -, hresults⟩ := rxStream_others hu
  have emitted : u.rxEvt.drop t.rxEvt.length = es := by rw [hes, List.drop_left]
  have effect : Block.meaning (.rxStream W) t = .next (u.returns (.events es)) := by
    rw [Block.meaning, hu, andThen_next, emitted]
  rw [← hresults]
  exact completesAs_of_meaning ht effect

/-- Settles O35: the composite is `runEach` of RX.BYTE, which the invariant makes total and which only adds events. -/
theorem rxStreamIsItsBytes : Obligations.RxStreamIsItsBytes := by
  intro s t W ht hinv
  obtain ⟨u, hu⟩ := rxStream_total hinv W
  obtain ⟨es, hes⟩ := rxStream_events_grow hu
  have oneByOne : execAll (W.map .rxByte) s = .next (s.withInst u) := by
    rw [execAll_map ht]
    exact congrArg (andThen · fun u => .next (s.withInst u)) hu
  exact ⟨s.withInst u, u, es, oneByOne, State.withInst_same ht u, hes, rxStream_completesAs ht hu hes⟩

/-! ### An encoded frame on the wire (41_deframer.md R106) -/

/-- The two shapes of a stuffed byte (30_encoding.md R51): a byte that is not reserved stands for itself, and a reserved
one becomes ESCAPE and the substitution code that decodes to it. -/
theorem stuff_cases (d : Byte) :
    ((d ≠ startByte ∧ d ≠ endByte ∧ d ≠ escapeByte) ∧ stuff d = [d]) ∨
    ∃ code, (code = subStart ∨ code = subEnd ∨ code = subEscape) ∧ isReservedByte d = true ∧
      unstuffed code = some d ∧ stuff d = [escapeByte, code] := by
  obtain ⟨startRow, endRow, escapeRow⟩ := stuff_of_reserved
  by_cases hstart : d = startByte
  · exact .inr ⟨subStart, .inl rfl, hstart ▸ rfl, hstart ▸ rfl, hstart ▸ startRow⟩
  by_cases hend : d = endByte
  · exact .inr ⟨subEnd, .inr (.inl rfl), hend ▸ rfl, hend ▸ rfl, hend ▸ endRow⟩
  by_cases hescape : d = escapeByte
  · exact .inr ⟨subEscape, .inr (.inr rfl), hescape ▸ rfl, hescape ▸ rfl, hescape ▸ escapeRow⟩
  · exact .inl ⟨⟨hstart, hend, hescape⟩, stuff_of_not_reserved hstart hend hescape⟩

/-- No marker stands in a stuffed byte. -/
theorem ne_marker_of_mem_stuff {b d : Byte} (h : b ∈ stuff d) : b ≠ startByte ∧ b ≠ endByte := by
  rcases stuff_cases d with ⟨⟨hstart, hend, -⟩, hd⟩ | ⟨code, hcode, -, -, hd⟩ <;> rw [hd] at h
  · exact List.mem_singleton.mp h ▸ ⟨hstart, hend⟩
  · rcases List.mem_pair.mp h with rfl | rfl
    · decide
    · rcases hcode with rfl | rfl | rfl <;> decide

/-- No marker stands between the markers of a wire form. -/
theorem ne_marker_of_mem_stuffed {b : Byte} {D : List Byte} (h : b ∈ D.flatMap stuff) :
    b ≠ startByte ∧ b ≠ endByte := by
  obtain ⟨d, -, hd⟩ := List.mem_flatMap.mp h
  exact ne_marker_of_mem_stuff hd

/-- The stuffed form of a byte, received inside a frame, is the byte appended. -/
theorem runEach_rxByte_stuff {t : Block} (hctx : t.rxState = .receiving) (d : Byte) :
    runEach Block.rxByte (stuff d) t = .next (t.append d) := by
  rcases stuff_cases d with ⟨⟨hstart, hend, hescape⟩, hd⟩ | ⟨code, -, -, hcode, hd⟩ <;> rw [hd]
  · rw [runEach_cons, rxByte_receiving_data hctx hstart hend hescape, andThen_next, runEach_nil]
  · rw [runEach_cons, rxByte_receiving_escape hctx, andThen_next, runEach_cons, rxByte_escaped_code rfl hcode,
      andThen_next, append_openEscape, runEach_nil]

/-- In `Idle` bytes that are no START are discarded, however many. -/
theorem runEach_rxByte_idle {t : Block} (hctx : t.rxState = .idle) {W : List Byte}
    (hW : ∀ b ∈ W, b ≠ startByte) : runEach Block.rxByte W t = .next t := by
  induction W with
  | nil => rfl
  | cons b W ih =>
    obtain ⟨hb, hW⟩ := List.forall_mem_cons.mp hW
    rw [runEach_cons, rxByte_idle_other hctx hb, andThen_next, ih hW]

/-- The copy `t` in the middle of a frame, its buffer `m`, after the bytes `l`. -/
def assembling (t : Block) (m : Memory) (l : List Byte) : Block :=
  { t with rxState := .receiving, rxLen := l.length, rxBuf := m }

/-- The copy `t` after END, its buffer `m`, with the frame `D` delivered. -/
def delivered (t : Block) (m : Memory) (D : List Byte) : Block :=
  { t with
    rxState := .idle
    rxLen := D.length
    rxBuf := m
    rxEvt := t.rxEvt ++ [{ src := t.params.instId, kind := .frame, err := .none, len := D.length, data := D }] }

/-- The copy `t` after an overflow, its buffer `m`. -/
def overflowed (t : Block) (m : Memory) : Block :=
  { t with
    rxState := .idle
    rxLen := 0
    rxBuf := m
    rxEvt := t.rxEvt ++
      [{ src := t.params.instId, kind := .error, err := .bufferOverflow, len := 0, data := [] }] }

theorem assembling_append {t : Block} {m : Memory} {l : List Byte} (hcap : l.length < t.params.cap) (v : Byte) :
    (assembling t m l).append v = assembling t (Memory.write m l.length v) (l ++ [v]) := by
  rw [append_of_lt (by exact hcap), assembling, assembling, List.length_append]
  rfl

theorem assembling_append_full {t : Block} {m : Memory} {l : List Byte} (hcap : t.params.cap ≤ l.length) (v : Byte) :
    (assembling t m l).append v = overflowed t m :=
  append_of_le (t := assembling t m l) hcap v

/-- Bytes that fit are assembled behind those that stand in the buffer. -/
theorem runEach_stuffed_fitting {t : Block} {m : Memory} {l : List Byte} (D : List Byte)
    (hm : Memory.copyFirst m l.length = some l) (hcap : l.length + D.length ≤ t.params.cap) :
    ∃ m', runEach Block.rxByte (D.flatMap stuff) (assembling t m l) = .next (assembling t m' (l ++ D)) ∧
      Memory.copyFirst m' (l ++ D).length = some (l ++ D) := by
  induction D generalizing m l with
  | nil => exact ⟨m, by simp, by simpa using hm⟩
  | cons d D ih =>
    rw [List.length_cons] at hcap
    have stored : Memory.copyFirst (Memory.write m l.length d) (l ++ [d]).length = some (l ++ [d]) := by
      rw [List.length_append]
      refine Memory.copyFirst_succ ?_ (Memory.read_write_same m l.length d)
      rw [Memory.copyFirst_write m _ _ d le_rfl, hm]
    obtain ⟨m', hrun, hm'⟩ := ih stored (by rw [List.length_append, List.length_singleton]; omega)
    rw [List.append_assoc, List.singleton_append] at hrun hm'
    refine ⟨m', ?_, hm'⟩
    rw [List.flatMap_cons, runEach_append, runEach_rxByte_stuff rfl, assembling_append (by omega), andThen_next, hrun]

/-- More bytes than fit end in an overflow: the first that does not fit drops the frame, and those behind it are
discarded in `Idle`. -/
theorem runEach_stuffed_overlong {t : Block} {m : Memory} {l : List Byte} (D : List Byte)
    (hl : l.length ≤ t.params.cap) (hcap : t.params.cap < l.length + D.length) :
    ∃ m', runEach Block.rxByte (D.flatMap stuff) (assembling t m l) = .next (overflowed t m') := by
  induction D generalizing m l with
  | nil => exact absurd hcap (by simpa using hl)
  | cons d D ih =>
    rw [List.length_cons] at hcap
    rw [List.flatMap_cons, runEach_append, runEach_rxByte_stuff rfl, andThen_next]
    rcases Nat.lt_or_ge l.length t.params.cap with hlt | hge
    · rw [assembling_append hlt]
      exact ih (by rw [List.length_append]; exact hlt) (by rw [List.length_append, List.length_singleton]; omega)
    · rw [assembling_append_full hge]
      exact ⟨m, runEach_rxByte_idle rfl fun b hb => (ne_marker_of_mem_stuffed hb).1⟩

/-- A wire form in `Idle`: START begins a frame, and what the stuffed bytes leave takes the END. -/
theorem rxStream_frameEncode {t u : Block} {D : List Byte} (hctx : t.rxState = .idle)
    (hbytes : runEach Block.rxByte (D.flatMap stuff) (assembling t t.rxBuf []) = .next u) :
    t.rxStream (frameEncode D) = u.rxByte endByte := by
  have start : t.rxByte startByte = .next (assembling t t.rxBuf []) := rxByte_idle_start hctx
  rw [Block.rxStream, frameEncode, runEach_append, runEach_append, runEach_cons, start, andThen_next, runEach_nil,
    andThen_next, hbytes, andThen_next, runEach_cons]
  exact andThen_self _

/-- A wire form that fits is delivered. -/
theorem rxStream_fitting {t : Block} {D : List Byte} (hctx : t.rxState = .idle) (hcap : D.length ≤ t.params.cap) :
    ∃ m, t.rxStream (frameEncode D) = .next (delivered t m D) := by
  obtain ⟨m, hrun, hm⟩ := runEach_stuffed_fitting (t := t) (m := t.rxBuf) (l := []) D rfl (by simpa using hcap)
  have copied : Memory.copyFirst (assembling t m D).rxBuf (assembling t m D).rxLen = some D := hm
  refine ⟨m, ?_⟩
  rw [rxStream_frameEncode hctx hrun, List.nil_append, rxByte_receiving_end rfl, Block.completeFrame, copied]
  rfl

/-- A wire form that does not fit is dropped. -/
theorem rxStream_overlong {t : Block} {D : List Byte} (hctx : t.rxState = .idle) (hcap : t.params.cap < D.length) :
    ∃ m, t.rxStream (frameEncode D) = .next (overflowed t m) := by
  obtain ⟨m, hrun⟩ := runEach_stuffed_overlong (t := t) (m := t.rxBuf) (l := []) D (Nat.zero_le _) (by simpa using hcap)
  exact ⟨m, by rw [rxStream_frameEncode hctx hrun, rxByte_idle_other rfl (by decide)]⟩

theorem frameDecode_fitting {p : Params} {D : List Byte} (hcap : D.length ≤ p.cap) :
    frameDecode p (frameEncode D) = some D := by
  obtain ⟨m, hrun⟩ := rxStream_fitting (t := Block.reset p) rfl hcap
  rw [frameDecode, hrun]
  rfl

theorem frameDecode_overlong {p : Params} {D : List Byte} (hcap : p.cap < D.length) :
    frameDecode p (frameEncode D) = none := by
  obtain ⟨m, hrun⟩ := rxStream_overlong (t := Block.reset p) rfl hcap
  rw [frameDecode, hrun]
  rfl

/-- Settles O36: the stuffed bytes are assembled one by one, and END delivers them. -/
theorem decodeOfEncodedFrame : Obligations.DecodeOfEncodedFrame := by
  intro s t D ht hctx hcap
  obtain ⟨m, hrun⟩ := rxStream_fitting hctx hcap
  exact ⟨frameDecode_fitting hcap, _, rxStream_completesAs ht hrun rfl, rfl, rfl⟩

/-- Settles O37: the byte that does not fit drops the frame, and in `Idle` the rest goes without trace. -/
theorem overlongFrameIsDropped : Obligations.OverlongFrameIsDropped := by
  intro s t D ht hctx hcap
  obtain ⟨m, hrun⟩ := rxStream_overlong hctx hcap
  exact ⟨frameDecode_overlong hcap, _, rxStream_completesAs ht hrun rfl, rfl, rfl⟩

end Sys2Proof.Proofs
end

section
/-! The framer (42_framer.md): its operations, TX.FRAME, and the wire form's length and transparency. -/

namespace Sys2Proof.Proofs

open Sys2Proof.Machine

theorem txStart_idle {t : Block} (hidle : t.txState = .txIdle) :
    t.txStart = .next ((t.emitTx startByte).setTxState .txOpen) := by
  rw [Block.txStart, hidle]

theorem txEnd_open {t : Block} (hopen : t.txState = .txOpen) :
    t.txEnd = .next ((t.emitTx endByte).setTxState .txIdle) := by
  rw [Block.txEnd, hopen]

/-- Settles O39: with no frame open TX.START is not refused. -/
theorem txStartOpensAFrame : Obligations.TxStartOpensAFrame :=
  fun _ _ ht hidle => completesAs_of_meaning ht (txStart_idle hidle)

/-- Settles O41: with a frame open TX.END is not refused. -/
theorem txEndClosesTheFrame : Obligations.TxEndClosesTheFrame :=
  fun _ _ ht hopen => completesAs_of_meaning ht (txEnd_open hopen)

/-- Settles O40: with a frame open TX.BYTE sends the stuffed byte, and each row the pair, or the byte, of its class. -/
theorem txByteEmitsTheStuffedByte : Obligations.TxByteEmitsTheStuffedByte := by
  intro s t ht hopen row d out hrow
  have pair (code : Byte) : t.inTxRow true (.next (t.emitPair code)) = .next (t.sent [escapeByte, code]) := by
    rw [Block.inTxRow_open hopen, Block.emitPair_eq_sent]
  have stuffed_and_row : stuff d = out ∧ Block.meaning row t = .next (t.sent out) := by
    rcases hrow with ⟨rfl, rfl, rfl⟩ | ⟨rfl, rfl, rfl⟩ | ⟨rfl, rfl, rfl⟩ | ⟨rfl, hstart, hend, hescape, rfl⟩
    · exact ⟨rfl, pair subStart⟩
    · exact ⟨rfl, pair subEnd⟩
    · exact ⟨rfl, pair subEscape⟩
    · have plain : (!isReservedByte d) = true := not_isReservedByte_iff.mpr ⟨hstart, hend, hescape⟩
      exact ⟨stuff_of_not_reserved hstart hend hescape, by
        rw [Block.meaning, plain, Block.inTxRow_open hopen, Block.emitTx_eq_sent]⟩
  obtain ⟨rfl, effect⟩ := stuffed_and_row
  exact ⟨completesAs_of_meaning ht (Block.txByte_open hopen d), completesAs_of_meaning ht effect⟩

/-- Settles O42: the composite by what it sends; each of its primitives answers a next state, since TX.START has opened
the frame. -/
theorem txFrameAppendsTheEncoding : Obligations.TxFrameAppendsTheEncoding := by
  intro s t D ht hidle
  have composite : Block.meaning (.txFrame D) t = .next (t.sent (frameEncode D)) := Block.txFrame_idle hidle D
  refine ⟨completesAs_of_meaning ht composite, ?_⟩
  have bytes := Block.runEach_txByte (t := (t.emitTx startByte).setTxState .txOpen) rfl D
  have last : Block.meaning .txEnd (((t.emitTx startByte).setTxState .txOpen).sent (D.flatMap stuff)) =
      .next (t.sent (frameEncode D)) := by
    rw [Block.meaning, txEnd_open rfl, frameEncode, ← Block.sent_sent, ← Block.sent_sent, ← hidle]
    rfl
  rw [exec_of ht, composite, andThen_next]
  exact execAll_expansion (op := .txByte) ht (txStart_idle hidle) bytes last

/-! ### The wire form (42_framer.md R126, R128) -/

theorem length_stuff (d : Byte) : (stuff d).length = 1 + if isReservedByte d then 1 else 0 := by
  rcases stuff_cases d with ⟨hplain, hd⟩ | ⟨code, -, hreserved, -, hd⟩ <;> rw [hd]
  · have : isReservedByte d = false := by simpa using not_isReservedByte_iff.mpr hplain
    simp [this]
  · simp [hreserved]

theorem length_stuffed (D : List Byte) : (D.flatMap stuff).length = D.length + D.countP isReservedByte := by
  induction D with
  | nil => rfl
  | cons d D ih =>
    rw [List.flatMap_cons, List.length_append, length_stuff, ih, List.length_cons, List.countP_cons]
    omega

/-- A marker occurs in a wire form as often as it stands at the two ends. -/
theorem count_marker_frameEncode (D : List Byte) :
    (frameEncode D).count startByte = 1 ∧ (frameEncode D).count endByte = 1 := by
  have inner : (D.flatMap stuff).count startByte = 0 ∧ (D.flatMap stuff).count endByte = 0 :=
    ⟨List.count_eq_zero.mpr fun h => (ne_marker_of_mem_stuffed h).1 rfl,
      List.count_eq_zero.mpr fun h => (ne_marker_of_mem_stuffed h).2 rfl⟩
  simp only [frameEncode, List.count_append, inner]
  decide

/-- The deframer recovers the sequence, so no two sequences share a wire form. -/
theorem frameEncode_injective : Function.Injective frameEncode := by
  intro D E h
  have hD := frameDecode_fitting (p := ⟨0, max D.length E.length, false⟩) (le_max_left D.length E.length)
  have hE := frameDecode_fitting (p := ⟨0, max D.length E.length, false⟩) (le_max_right D.length E.length)
  rw [← h, hD] at hE
  exact Option.some.inj hE

/-- Settles O43: length and markers over the stuffed bytes, the units are the stuffed bytes, and the wire form is
injective because it can be decoded. -/
theorem encodingLengthAndTransparency : Obligations.EncodingLengthAndTransparency := by
  refine ⟨fun D => ?_, fun D => ?_, fun D => ⟨D.map stuff, List.length_map _, ?_, fun u hu => ?_⟩,
    fun _ _ h => frameEncode_injective h⟩
  · have length : (frameEncode D).length = D.length + 2 + D.countP isReservedByte := by
      rw [frameEncode, List.length_append, List.length_append, length_stuffed]
      simp only [List.length_singleton]
      omega
    exact length
  · obtain ⟨hstart, hend⟩ := count_marker_frameEncode D
    exact ⟨rfl, hstart, List.getLast?_concat, hend⟩
  · exact frameEncodeIsStuffing.1 D
  · obtain ⟨d, -, rfl⟩ := List.mem_map.mp hu
    rcases stuff_cases d with ⟨hplain, hd⟩ | ⟨code, hcode, -, -, hd⟩ <;> rw [hd]
    · exact .inl ⟨d, rfl, hplain⟩
    · rcases hcode with rfl | rfl | rfl
      · exact .inr (.inl rfl)
      · exact .inr (.inr (.inl rfl))
      · exact .inr (.inr (.inr rfl))

end Sys2Proof.Proofs
end

section
/-! The frame check sequence (43_fcs.md): what FCS.APPEND, FCS.CHECK and TX.PACKET do, the round trip, and the detection
of a flipped bit. -/

namespace Sys2Proof.Proofs

open Sys2Proof.Machine

/-! ### The verdict of a buffer by its payload and its last two bytes -/

theorem payloadOf_append (P : List Byte) (lo hi : Byte) : payloadOf (P ++ [lo, hi]) = P := by
  simp [payloadOf]

/-- The word of the last two bytes has the last one high (30_encoding.md R58). -/
theorem receivedFcs_append (P : List Byte) (lo hi : Byte) : receivedFcs (P ++ [lo, hi]) = hi ++ lo := by
  simp [receivedFcs, List.getD_eq_getElem?_getD]

theorem verdictOf_append (P : List Byte) (lo hi : Byte) (c : Word16) :
    verdictOf (P ++ [lo, hi]) c = if c = hi ++ lo then .ok P else .crcMismatch := by
  rw [verdictOf, receivedFcs_append, payloadOf_append]

theorem not_tooShort_of_ne_nil {P : List Byte} (hP : P ≠ []) (lo hi : Byte) :
    ¬ (P ++ [lo, hi]).length < fcsMinLen := by
  have := List.length_pos_iff.mpr hP
  rw [List.length_append, fcsMinLen, List.length_cons, List.length_singleton]
  omega

theorem fcsVerdict_append {P : List Byte} (hP : P ≠ []) (lo hi : Byte) :
    fcsVerdict (P ++ [lo, hi]) = if compute fcsSeed P = hi ++ lo then .ok P else .crcMismatch := by
  rw [fcsVerdict, if_neg (not_tooShort_of_ne_nil hP lo hi), payloadOf_append, verdictOf_append]

/-- With the two bytes of a word behind it a payload passes exactly when that word is its CRC. -/
theorem fcsVerdict_fcsBytes {P : List Byte} (hP : P ≠ []) (c : Word16) :
    fcsVerdict (P ++ fcsBytes c) = if compute fcsSeed P = c then .ok P else .crcMismatch := by
  rw [fcsBytes, fcsVerdict_append hP, highByte_append_lowByte]

theorem fcsVerdict_own_crc {P : List Byte} (hP : P ≠ []) :
    fcsVerdict (P ++ fcsBytes (compute fcsSeed P)) = .ok P := by
  rw [fcsVerdict_fcsBytes hP, if_pos rfl]

/-! ### The operations -/

/-- FCS.CHECK answers the function's verdict; it leaves a CRC only where one is computed. -/
theorem meaning_fcsCheck (t : Block) (B : List Byte) :
    Block.meaning (.fcsCheck B) t =
      .next ((if B.length < fcsMinLen then t else t.seedCrc (compute fcsSeed (payloadOf B))).returns
        (.verdict (fcsVerdict B))) := by
  rw [Block.meaning, Block.fcsCheck_eq, andThen_next]

theorem meaning_txPacket {t : Block} (hidle : t.txState = .txIdle) (P : List Byte) :
    Block.meaning (.txPacket P) t =
      .next ((t.seedCrc (compute fcsSeed P)).sent (frameEncode (P ++ fcsBytes (compute fcsSeed P)))) := by
  rw [Block.meaning, Block.txPacket_eq, Block.txFrame_idle (by exact hidle)]

/-- Settles O44: the expansion never stops, leaves the CRC of the payload and returns the payload with its bytes. -/
theorem fcsAppendReturnsPayloadAndCrc : Obligations.FcsAppendReturnsPayloadAndCrc := by
  intro s t P ht
  have effect : Block.meaning (.fcsAppend P) t = .next
      ((t.seedCrc (compute fcsSeed P)).returns (.bytes (P ++ fcsBytes (compute fcsSeed P)))) := by
    rw [Block.meaning, Block.fcsAppend_eq, andThen_next]
  exact completesAs_of_meaning ht effect

/-- Settles O45: the length decides whether a CRC is computed, and the last two bytes are the word it is held to. -/
theorem fcsCheckComparesTheCrc : Obligations.FcsCheckComparesTheCrc := by
  constructor
  · intro s t B ht (hB : B.length < fcsMinLen)
    have effect := meaning_fcsCheck t B
    rw [fcsVerdict, if_pos hB, if_pos hB] at effect
    exact completesAs_of_meaning ht effect
  · intro s t P lo hi ht hP
    have effect := meaning_fcsCheck t (P ++ [lo, hi])
    rw [fcsVerdict_append hP, if_neg (not_tooShort_of_ne_nil hP lo hi), payloadOf_append] at effect
    exact completesAs_of_meaning ht effect

/-- Settles O46: the CRC engine's work leaves the framer as it was, so the frame of payload and CRC follows. -/
theorem txPacketAppendsTheFramedPacket : Obligations.TxPacketAppendsTheFramedPacket :=
  fun _ _ P ht hidle => completesAs_of_meaning ht (meaning_txPacket hidle P)

/-- Settles O47: what is appended is the word the check computes; the empty payload makes two bytes only. -/
theorem checkOfAppendedIsOk : Obligations.CheckOfAppendedIsOk := by
  refine ⟨fun P hP => fcsVerdict_own_crc hP, rfl, fun s t B ht => ?_⟩
  refine ⟨_, completesAs_of_meaning ht (meaning_fcsCheck t B), ?_⟩
  split <;> rfl

/-- The CRC of a sequence differs when one of its bytes does: the update is one to one in the byte, and every later
update in the accumulator. -/
theorem compute_set_ne (v : Word16) {P : List Byte} {i : Nat} (hi : i < P.length) {d : Byte} (hd : d ≠ P[i]) :
    compute v (P.set i d) ≠ compute v P := by
  induction P generalizing v i with
  | nil => exact absurd hi (Nat.not_lt_zero i)
  | cons b P ih =>
    cases i with
    | zero => exact fun h => hd (crcUpdate_injective_byte v (compute_injective_seed P h))
    | succ i => exact ih (crcUpdate v b) (Nat.lt_of_succ_lt_succ hi) hd

/-- Settles O48: a flipped bit makes another byte, and another byte another CRC than the one the buffer carries. -/
theorem singleBitErrorIsDetected : Obligations.SingleBitErrorIsDetected := by
  intro P i k hi hk
  have flips : P[i] ^^^ (1#8 <<< k) ≠ P[i] := by
    intro h
    have bit := congrArg (fun b => b.getLsbD k) h
    simp [hk] at bit
  have nonempty : P.set i (P[i] ^^^ (1#8 <<< k)) ≠ [] := by
    intro h
    rw [List.set_eq_nil_iff] at h
    exact absurd hi (by simp [h])
  exact (fcsVerdict_fcsBytes nonempty (compute fcsSeed P)).trans (if_neg (compute_set_ne fcsSeed hi flips))

/-- Settles O49: the packet's wire form is that of payload and CRC, an idle deframer delivers these, and their check is
ok. -/
theorem packetArrivesEndToEnd : Obligations.PacketArrivesEndToEnd := by
  intro s t P ht hidle hP
  refine ⟨_, frameEncode (P ++ fcsBytes (compute fcsSeed P)),
    completesAs_of_meaning ht (meaning_txPacket hidle P), rfl, fun r v hv hctx hcap => ?_⟩
  have length : (P ++ fcsBytes (compute fcsSeed P)).length = P.length + 2 := List.length_append
  obtain ⟨m, hrun⟩ := rxStream_fitting (D := P ++ fcsBytes (compute fcsSeed P)) hctx (by rw [length]; exact hcap)
  have ok := fcsVerdict_own_crc hP
  refine ⟨_, _, rxStream_completesAs hv hrun rfl, rfl, rfl, length, ok, ?_⟩
  rw [receiveError_of_frame rfl, ok, Verdict.receiveError]

/-- Settles O51: the numbers are the tables of `ReceiveError.code`, `rxStateCode` and `txStateCode`. -/
theorem codesOfErrorsAndStates : Obligations.CodesOfErrorsAndStates :=
  ⟨rfl, rfl, rfl⟩

end Sys2Proof.Proofs
end

section
/-! Steps (00_scope.md section 5.3): the inputs a step takes, the state after reset, what every step keeps of every copy
(10_state.md R22), and that copies and units do not touch each other (10_state.md R10, R25). -/

namespace Sys2Proof.Proofs

open Sys2Proof.Machine

/-! ### One step by its input -/

theorem step_nothing {s : State} (h : s.input = []) : step s = .next s := by
  simp only [step, present, h]

theorem step_word {s : State} {p : Nat} {w : Cmd} {rest : List Input} (h : s.input = .word p w :: rest) :
    step s = exec (decodeWord w) { s with input := rest, port := p } := by
  simp only [step, present, h]
  rfl

theorem step_op {s : State} {p : Nat} {i : Instr} {rest : List Input} (h : s.input = .op p i :: rest) :
    step s = exec i { s with input := rest, port := p } := by
  simp only [step, present, h]
  rfl

theorem step_reset {s : State} {rest : List Input} (h : s.input = .reset :: rest) :
    step s = .next (s.withInput rest).resetEvent := by
  simp only [step, present, h]

/-- Settles O5: one clause for each form of input; a RESET maps every copy to its reset state. -/
theorem stepRunsThePresentedOperation : Obligations.StepRunsThePresentedOperation := by
  refine fun s => ⟨step_nothing, fun _ _ _ => step_word, fun _ _ _ => step_op, fun rest h => ?_⟩
  refine ⟨_, step_reset h, rfl, by simp [Function.comp_def], fun u hu => ?_⟩
  obtain ⟨t, -, rfl⟩ := List.mem_map.mp hu
  exact ⟨rfl, rfl, rfl, rfl⟩

/-- Settles O6: a RESET keeps the places of the copies, and in each place puts the reset state of the same parameters. -/
theorem resetEventResetsEveryCopy : Obligations.ResetEventResetsEveryCopy := by
  intro s rest h
  refine ⟨_, step_reset h, rfl, List.length_map _, fun k t ht => ⟨Block.reset t.params, ?_, ?_⟩⟩
  · rw [State.resetEvent_insts, State.withInput_insts, List.getElem?_map, ht, Option.map_some]
  · exact ⟨rfl, rfl, rfl, rfl, rfl, rfl, rfl⟩

/-- The copy in place `k` after reset is that of the parameters of copy `k`. -/
theorem reset_getElem? {k : Nat} {t : Block} (h : State.reset.insts[k]? = some t) :
    t = Block.reset (Config.params k) := by
  have place := resetInstances_getElem? h
  rwa [Nat.zero_add] at place

/-- Settles O7: each copy after reset by its place. -/
theorem stateAfterReset : Obligations.StateAfterReset := by
  refine ⟨resetInstances_length _ _, Nat.le_add_left 1 _, rfl, fun k t ht => ?_⟩
  obtain rfl := reset_getElem? ht
  exact ⟨rfl, Nat.le_add_left 1 _, rfl, rfl, rfl, rfl, rfl, rfl⟩

/-! ### What a step can do to the copy in each place -/

/-- Doing nothing to a copy is a move. -/
theorem move_refl (t : Block) : t.Move t := by
  have move := Block.Move.crc (t := t) t.crc t.crcValid [] id
  rwa [List.append_nil] at move

/-- An operation makes a move of every copy: of the addressed one its own, of every other none. -/
theorem exec_moves {i : Instr} {s s' : State} {k : Nat} {t : Block} (h : exec i s = .next s')
    (ht : s.insts[k]? = some t) : ∃ u, s'.insts[k]? = some u ∧ t.Move u := by
  obtain ⟨v, u, hv, hu, rfl⟩ := exec_eq_next h
  by_cases hk : k = s.port
  · subst hk
    obtain rfl : t = v := Option.some.inj (ht.symm.trans hv)
    exact ⟨u, State.withInst_same ht u, Block.meaning_move hu⟩
  · exact ⟨t, (State.withInst_other s u hk).trans ht, move_refl t⟩

/-- A step makes a move of the copy in each place, or a RESET puts its reset state there. -/
theorem step_moves {s s' : State} {k : Nat} {t : Block} (h : step s = .next s') (ht : s.insts[k]? = some t) :
    ∃ u, s'.insts[k]? = some u ∧ (t.Move u ∨ s.input.head? = some .reset ∧ u = Block.reset t.params) := by
  rcases step_eq_next h with ⟨-, rfl⟩ | ⟨rest, hin, rfl⟩ | ⟨i, p, rest, -, hexec⟩
  · exact ⟨t, ht, .inl (move_refl t)⟩
  · exact ⟨Block.reset t.params, by simp [ht], .inr ⟨by rw [hin]; rfl, rfl⟩⟩
  · obtain ⟨u, hu, hmove⟩ := exec_moves hexec ht
    exact ⟨u, hu, .inl hmove⟩

theorem step_length {s s' : State} (h : step s = .next s') : s'.insts.length = s.insts.length := by
  rcases step_eq_next h with ⟨-, rfl⟩ | ⟨rest, -, rfl⟩ | ⟨i, p, rest, -, hexec⟩
  · rfl
  · simp
  · obtain ⟨t, u, -, -, rfl⟩ := exec_eq_next hexec
    simp

/-- A property of a copy in its place that every move keeps, and its reset state inherits, is kept by every step. -/
theorem step_keeps {P : Nat → Block → Prop} (hmove : ∀ k t u, P k t → t.Move u → P k u)
    (hreset : ∀ k t, P k t → P k (Block.reset t.params)) {s s' : State} (h : step s = .next s')
    (hs : ∀ k t, s.insts[k]? = some t → P k t) : ∀ k u, s'.insts[k]? = some u → P k u := by
  intro k u hu
  have hk : k < s.insts.length := step_length h ▸ (List.getElem?_eq_some_iff.mp hu).1
  obtain ⟨t, ht⟩ : ∃ t, s.insts[k]? = some t := ⟨_, List.getElem?_eq_getElem hk⟩
  obtain ⟨v, hv, hcase⟩ := step_moves h ht
  obtain rfl : u = v := Option.some.inj (hu.symm.trans hv)
  rcases hcase with hm | ⟨-, rfl⟩
  · exact hmove k t u (hs k t ht) hm
  · exact hreset k t (hs k t ht)

/-- The same for a property that does not speak of the place. -/
theorem step_keeps_all {P : Block → Prop} (hmove : ∀ t u : Block, P t → t.Move u → P u)
    (hreset : ∀ t, P t → P (Block.reset t.params)) {s s' : State} (h : step s = .next s')
    (hs : ∀ t ∈ s.insts, P t) : ∀ u ∈ s'.insts, P u := by
  have kept := step_keeps (P := fun _ => P) (fun _ => hmove) (fun _ => hreset) h
    fun k t ht => hs t (List.mem_of_getElem? ht)
  intro u hu
  obtain ⟨k, hk⟩ := List.mem_iff_getElem?.mp hu
  exact kept k u hk

/-! ### The invariants (10_state.md R22) -/

theorem move_params {t u : Block} (h : t.Move u) : u.params = t.params := by
  cases h with
  | rx W u rs hu => exact (rxStream_others hu).1
  | row u hu => exact hu.others.1
  | crc | rxReset | tx | packet => rfl

theorem move_inv {t u : Block} (ht : t.Inv) (h : t.Move u) : u.Inv := by
  cases h with
  | crc | tx | packet => exact Block.inv_of_same ht _ rfl rfl rfl
  | rx W u rs hu =>
    have hinv : u.Inv := Block.rxStream_keeps (fun _ _ hv hmove => hmove.inv hv) ht hu
    exact Block.inv_of_same hinv _ rfl rfl rfl
  | row u hu => exact hu.inv ht
  | rxReset => exact Block.inv_of_empty ht _ rfl rfl rfl

/-- The reset state of a copy with a capacity of at least 1 satisfies the invariant. -/
theorem reset_inv {p : Params} (hcap : 1 ≤ p.cap) : (Block.reset p).Inv :=
  ⟨hcap, Nat.zero_le _, Memory.reset_wf p, fun a _ => Memory.read_nil a, fun a ha => absurd ha (Nat.not_lt_zero a)⟩

/-- Settles O52: every move keeps the invariant and the number, and so does RESET, which keeps the capacity. -/
theorem stepKeepsTheInvariant : Obligations.StepKeepsTheInvariant := by
  intro s s' hs h
  refine step_keeps (P := fun k t => t.params.instId = k ∧ t.Inv) ?_ ?_ h hs
  · rintro k t u ⟨hid, hinv⟩ hmove
    exact ⟨by rw [move_params hmove, hid], move_inv hinv hmove⟩
  · rintro k t ⟨hid, hcap, -⟩
    exact ⟨hid, reset_inv hcap⟩

/-- The copy's events are well formed (10_state.md R18). -/
def EventsWf (t : Block) : Prop := ∀ e ∈ t.rxEvt, e.wf t.params

theorem eventsWf_of_same {t u : Block} (ht : EventsWf t) (hp : u.params = t.params) (he : u.rxEvt = t.rxEvt) :
    EventsWf u := by
  unfold EventsWf
  rwa [hp, he]

theorem eventsWf_of_emitted {t u : Block} {e : Event} (ht : EventsWf t) (he : e.wf t.params)
    (hp : u.params = t.params) (hu : u.rxEvt = t.rxEvt ++ [e]) : EventsWf u := by
  unfold EventsWf
  rw [hp, hu]
  intro f hf
  rcases List.mem_append.mp hf with hold | hnew
  · exact ht f hold
  · exact List.mem_singleton.mp hnew ▸ he

theorem errorEvent_wf (t : Block) {kind : ReceiveError}
    (h : kind = .prematureStart ∨ kind = .bufferOverflow ∨ kind = .badEscapeSequence) :
    (t.errorEvent kind).wf t.params :=
  ⟨rfl, h, rfl, rfl⟩

theorem frameEvent_wf {t : Block} (ht : t.Inv) {data : List Byte}
    (hdata : Memory.copyFirst t.rxBuf t.rxLen = some data) : (t.frameEvent data).wf t.params := by
  obtain ⟨-, hlen, -⟩ := ht
  exact ⟨rfl, rfl, (Memory.copyFirst_spec hdata).1.symm, hlen⟩

/-- The event a row emits is well formed, the length being within the capacity. -/
theorem rxMove_eventsWf {t u : Block} (hinv : t.Inv) (ht : EventsWf t) (h : t.RxMove u) : EventsWf u := by
  cases h with
  | discard => exact ht
  | start | escape | store => exact eventsWf_of_same ht rfl rfl
  | premature => exact eventsWf_of_emitted ht (errorEvent_wf t (.inl rfl)) rfl rfl
  | complete data hdata => exact eventsWf_of_emitted ht (frameEvent_wf hinv hdata) rfl rfl
  | overflow => exact eventsWf_of_emitted ht (errorEvent_wf t (.inr (.inl rfl))) rfl rfl
  | bad => exact eventsWf_of_emitted ht (errorEvent_wf t (.inr (.inr rfl))) rfl rfl

theorem move_eventsWf {t u : Block} (hinv : t.Inv) (ht : EventsWf t) (h : t.Move u) : EventsWf u := by
  cases h with
  | crc | rxReset | tx | packet => exact eventsWf_of_same ht rfl rfl
  | rx W u rs hu =>
    have kept := Block.rxStream_keeps (P := fun v => v.Inv ∧ EventsWf v)
      (fun _ _ hv hmove => ⟨hmove.inv hv.1, rxMove_eventsWf hv.1 hv.2 hmove⟩) ⟨hinv, ht⟩ hu
    exact eventsWf_of_same kept.2 rfl rfl
  | row u hu => exact rxMove_eventsWf hinv ht hu

/-- Settles O54: with the invariant, every move keeps the events well formed; RESET leaves none. -/
theorem stepKeepsEventsWellFormed : Obligations.StepKeepsEventsWellFormed := by
  intro s s' hinv hs h u hu
  refine (step_keeps_all (P := fun t => t.Inv ∧ EventsWf t) ?_ ?_ h (fun t ht => ?_) u hu).2
  · rintro t u ⟨ht, hev⟩ hmove
    exact ⟨move_inv ht hmove, move_eventsWf ht hev hmove⟩
  · rintro t ⟨⟨hcap, -⟩, -⟩
    exact ⟨reset_inv hcap, fun e he => absurd he List.not_mem_nil⟩
  · obtain ⟨k, hk⟩ := List.mem_iff_getElem?.mp ht
    exact ⟨(hinv k t hk).2, hs t ht⟩

theorem sendsFrames_of_idle {t : Block} (hidle : t.txState = .txIdle) :
    t.sendsFrames ↔ ∃ sent : List (List Byte), t.txOut = sent.flatMap frameEncode := by
  simp only [Block.sendsFrames, hidle]

theorem sendsFrames_of_open {t : Block} (hopen : t.txState = .txOpen) :
    t.sendsFrames ↔ ∃ (sent : List (List Byte)) (D : List Byte),
      t.txOut = sent.flatMap frameEncode ++ [startByte] ++ D.flatMap stuff := by
  simp only [Block.sendsFrames, hopen]

theorem sendsFrames_of_same {t u : Block} (ht : t.sendsFrames) (hx : u.txState = t.txState)
    (ho : u.txOut = t.txOut) : u.sendsFrames := by
  unfold Block.sendsFrames
  rwa [hx, ho]

/-- What a framer operation sends goes on with the frame that is open, or begins, ends or is one. -/
theorem txMove_sendsFrames {t u : Block} {l : List Byte} (ht : t.sendsFrames) (h : TxMove t.txState u.txState l)
    (ho : u.txOut = t.txOut ++ l) : u.sendsFrames := by
  generalize hx : t.txState = x at h
  generalize hy : u.txState = y at h
  cases h with
  | start =>
    obtain ⟨sent, hsent⟩ := (sendsFrames_of_idle hx).mp ht
    exact (sendsFrames_of_open hy).mpr ⟨sent, [], by rw [ho, hsent, List.flatMap_nil, List.append_nil]⟩
  | byte d =>
    obtain ⟨sent, D, hsent⟩ := (sendsFrames_of_open hx).mp ht
    exact (sendsFrames_of_open hy).mpr ⟨sent, D ++ [d], by
      rw [ho, hsent, List.append_assoc, List.flatMap_append, List.flatMap_singleton]⟩
  | stop =>
    obtain ⟨sent, D, hsent⟩ := (sendsFrames_of_open hx).mp ht
    exact (sendsFrames_of_idle hy).mpr ⟨sent ++ [D], by
      rw [ho, hsent, List.flatMap_append, List.flatMap_singleton, frameEncode]
      simp only [List.append_assoc]⟩
  | frame D =>
    obtain ⟨sent, hsent⟩ := (sendsFrames_of_idle hx).mp ht
    exact (sendsFrames_of_idle hy).mpr ⟨sent ++ [D], by
      rw [ho, hsent, List.flatMap_append, List.flatMap_singleton]⟩

theorem move_sendsFrames {t u : Block} (ht : t.sendsFrames) (h : t.Move u) : u.sendsFrames := by
  cases h with
  | crc | rxReset => exact sendsFrames_of_same ht rfl rfl
  | rx W u rs hu =>
    obtain ⟨-, -, -, hx, ho, -⟩ := rxStream_others hu
    exact sendsFrames_of_same ht hx ho
  | row u hu =>
    obtain ⟨-, -, -, hx, ho, -⟩ := hu.others
    exact sendsFrames_of_same ht hx ho
  | tx x l hl => exact txMove_sendsFrames ht hl rfl
  | packet c D hidle => exact txMove_sendsFrames ht (by rw [hidle]; exact .frame D) rfl

theorem reset_sendsFrames (p : Params) : (Block.reset p).sendsFrames :=
  (sendsFrames_of_idle rfl).mpr ⟨[], rfl⟩

/-- Settles O55: every move keeps it, and RESET empties the stream. -/
theorem stepKeepsWholeFramesSent : Obligations.StepKeepsWholeFramesSent :=
  fun _ _ hs h => step_keeps_all (fun _ _ => move_sendsFrames) (fun t _ => reset_sendsFrames t.params) h hs

/-- Settles O53: the reset state of every copy has a capacity of at least 1, no event and nothing sent. -/
theorem resetSatisfiesTheInvariants : Obligations.ResetSatisfiesTheInvariants := by
  constructor
  · intro k t ht
    obtain rfl := reset_getElem? ht
    exact ⟨rfl, reset_inv (Nat.le_add_left 1 _)⟩
  · intro k t ht
    obtain rfl := reset_getElem? ht
    exact ⟨fun e he => absurd he List.not_mem_nil, reset_sendsFrames _⟩

/-- Settles O56: the copy in each place keeps its parameters under a move and under RESET. -/
theorem parametersNeverChange : Obligations.ParametersNeverChange := by
  intro s s' h
  apply List.ext_getElem?
  intro k
  rw [List.getElem?_map, List.getElem?_map]
  cases ht : s.insts[k]? with
  | none =>
    have hk : s'.insts.length ≤ k := step_length h ▸ List.getElem?_eq_none_iff.mp ht
    rw [List.getElem?_eq_none hk]
  | some t =>
    obtain ⟨u, hu, hcase⟩ := step_moves h ht
    have params : u.params = t.params := by
      rcases hcase with hm | ⟨-, rfl⟩
      · exact move_params hm
      · rfl
    rw [hu, Option.map_some, Option.map_some, params]

/-- A move takes back no event and no byte, and keeps a seeded engine seeded. -/
theorem move_grows {t u : Block} (h : t.Move u) :
    (∃ es, u.rxEvt = t.rxEvt ++ es) ∧ (∃ bs, u.txOut = t.txOut ++ bs) ∧ (t.crcValid = true → u.crcValid = true) := by
  cases h with
  | crc c v rs hv => exact ⟨⟨[], by simp⟩, ⟨[], by simp⟩, hv⟩
  | rx W u rs hu =>
    obtain ⟨-, -, hv, -, ho, -⟩ := rxStream_others hu
    obtain ⟨es, hes⟩ := rxStream_events_grow hu
    exact ⟨⟨es, hes⟩, ⟨[], by simp [ho]⟩, fun ht => hv.trans ht⟩
  | row u hu =>
    obtain ⟨-, -, hv, -, ho, -⟩ := hu.others
    exact ⟨rxMove_events_grow hu, ⟨[], by simp [ho]⟩, fun ht => hv.trans ht⟩
  | rxReset => exact ⟨⟨[], by simp⟩, ⟨[], by simp⟩, id⟩
  | tx x l hl => exact ⟨⟨[], by simp⟩, ⟨l, rfl⟩, id⟩
  | packet c D hidle => exact ⟨⟨[], by simp⟩, ⟨frameEncode D, rfl⟩, fun _ => rfl⟩

/-- Settles O57: without a RESET a step makes a move of the copy in each place, and a move only adds. -/
theorem streamsOnlyGrow : Obligations.StreamsOnlyGrow := by
  intro s s' k t hnoReset h ht
  obtain ⟨u, hu, hm | ⟨hreset, -⟩⟩ := step_moves h ht
  · exact ⟨u, hu, move_grows hm⟩
  · exact absurd hreset hnoReset

/-! ### Copies and units do not touch each other -/

/-- Settles O58: a completed operation replaces the addressed copy. -/
theorem operationLeavesOtherCopies : Obligations.OperationLeavesOtherCopies := by
  intro i s s' h
  obtain ⟨t, u, -, -, rfl⟩ := exec_eq_next h
  exact ⟨rfl, rfl, by simp, fun k hk => State.withInst_other s u hk⟩

/-- An operation presented at a port runs on the copy there. -/
theorem execAt_eq_next {p : Nat} {i : Instr} {s s' : State} :
    execAt p i s = .next s' ↔
      ∃ t u, s.insts[p]? = some t ∧ Block.meaning i t = .next u ∧ s' = (s.atPort p).withInst u := by
  refine ⟨exec_eq_next, ?_⟩
  rintro ⟨t, u, ht, hu, rfl⟩
  have ht : (s.atPort p).insts[(s.atPort p).port]? = some t := ht
  rw [execAt, exec_of ht, hu, andThen_next]

/-- Settles O60: each operation finds its copy as it was, whichever comes first, and the two replacements are at
different places. -/
theorem differentCopiesCommute : Obligations.DifferentCopiesCommute := by
  intro s s₁ s₂ p q i j hpq h₁ h₂
  obtain ⟨t, t', ht, hi, rfl⟩ := execAt_eq_next.mp h₁
  obtain ⟨u, u', hu, hj, rfl⟩ := execAt_eq_next.mp h₂
  simp only [State.withInst_insts, State.atPort_insts, State.atPort_port, List.getElem?_set_ne hpq] at hu
  have ht' : ((s.atPort q).withInst u').insts[p]? = some t := by
    simp only [State.withInst_insts, State.atPort_insts, State.atPort_port, List.getElem?_set_ne hpq.symm, ht]
  refine ⟨_, _, execAt_eq_next.mpr ⟨u, u', hu, hj, rfl⟩, execAt_eq_next.mpr ⟨t, t', ht', hi, rfl⟩, ?_⟩
  exact List.set_comm u' t' hpq.symm

/-- A CRC operation works on the accumulator, its valid bit and the values returned. -/
theorem meaning_crcOnly {i : Instr} {t u : Block} (hi : i.drivesCrcOnly = true) (h : Block.meaning i t = .next u) :
    ∃ c v rs, u = { t with crc := c, crcValid := v, results := rs } := by
  cases i <;> try exact Bool.noConfusion hi
  all_goals simp only [Block.meaning] at h
  case crcInit v => exact ⟨_, _, _, (Host.Outcome.next.inj h).symm⟩
  case crcByte d =>
    unfold Block.crcByte at h
    split at h
    · exact ⟨_, _, _, (Host.Outcome.next.inj h).symm⟩
    · exact absurd h (by simp)
  case crcRead =>
    obtain ⟨c, -, hu⟩ := andThen_eq_next.mp h
    exact ⟨_, _, _, (Host.Outcome.next.inj hu).symm⟩
  case crcCompute v D =>
    rw [Block.crcCompute_eq] at h
    exact ⟨_, _, _, (Host.Outcome.next.inj h).symm⟩
  case fcsAppend P =>
    rw [Block.fcsAppend_eq] at h
    exact ⟨_, _, _, (Host.Outcome.next.inj h).symm⟩
  case fcsCheck B =>
    rw [Block.fcsCheck_eq] at h
    obtain rfl := Host.Outcome.next.inj h
    split
    · exact ⟨_, _, _, rfl⟩
    · exact ⟨_, _, _, rfl⟩

/-- A row of RX.BYTE that runs is the move it stands for. -/
theorem inRxRow_next {t u w : Block} {ctx : RxState} {c : Bool} (hw : t.RxMove w)
    (h : t.inRxRow ctx c (.next w) = .next u) : t.RxMove u := by
  obtain ⟨-, -, hu⟩ := Block.inRxRow_eq_next h
  exact Host.Outcome.next.inj hu ▸ hw

/-- A deframer operation leaves the CRC engine and the framer. -/
theorem meaning_deframerOnly {i : Instr} {t u : Block} (hi : i.drivesDeframerOnly = true)
    (h : Block.meaning i t = .next u) : sameCrcEngine t u ∧ sameFramer t u := by
  have ofMove (hm : t.RxMove u) : sameCrcEngine t u ∧ sameFramer t u := by
    obtain ⟨-, hc, hv, hx, ho, -⟩ := hm.others
    exact ⟨⟨hc, hv⟩, hx, ho⟩
  cases i <;> try exact Bool.noConfusion hi
  all_goals simp only [Block.meaning] at h
  case rxReset =>
    obtain rfl := Host.Outcome.next.inj h
    exact ⟨⟨rfl, rfl⟩, rfl, rfl⟩
  case rxStream W =>
    obtain ⟨w, hw, hu⟩ := andThen_eq_next.mp h
    obtain rfl := Host.Outcome.next.inj hu
    obtain ⟨-, hc, hv, hx, ho, -⟩ := rxStream_others hw
    exact ⟨⟨hc, hv⟩, hx, ho⟩
  case rxByte b => exact ofMove (Block.rxByte_move h)
  case rxIdleStart => exact ofMove (inRxRow_next .start h)
  case rxIdleOther b => exact ofMove (inRxRow_next .discard h)
  case rxReceivingStart => exact ofMove (inRxRow_next t.prematureStart_move h)
  case rxReceivingEnd =>
    obtain ⟨-, -, hu⟩ := Block.inRxRow_eq_next h
    exact ofMove (Block.completeFrame_move hu)
  case rxReceivingEscape => exact ofMove (inRxRow_next .escape h)
  case rxReceivingData b => exact ofMove (inRxRow_next (t.append_move b) h)
  case rxEscapedSubStart => exact ofMove (inRxRow_next (t.append_move _) h)
  case rxEscapedSubEnd => exact ofMove (inRxRow_next (t.append_move _) h)
  case rxEscapedSubEscape => exact ofMove (inRxRow_next (t.append_move _) h)
  case rxEscapedInvalid b => exact ofMove (inRxRow_next .bad h)

/-- A row of TX.BYTE that runs leaves what it stands for. -/
theorem inTxRow_next {t u w : Block} {c : Bool} (h : t.inTxRow c (.next w) = .next u) : w = u := by
  obtain ⟨-, -, hu⟩ := Block.inTxRow_eq_next h
  exact Host.Outcome.next.inj hu

/-- A framer operation works on the framer's state and its stream. -/
theorem meaning_framerOnly {i : Instr} {t u : Block} (hi : i.drivesFramerOnly = true)
    (h : Block.meaning i t = .next u) : ∃ x out, u = { t with txState := x, txOut := out } := by
  cases i <;> try exact Bool.noConfusion hi
  all_goals simp only [Block.meaning] at h
  case txStart =>
    unfold Block.txStart at h
    split at h
    · exact ⟨_, _, (Host.Outcome.next.inj h).symm⟩
    · exact absurd h (by simp)
  case txEnd =>
    unfold Block.txEnd at h
    split at h
    · exact absurd h (by simp)
    · exact ⟨_, _, (Host.Outcome.next.inj h).symm⟩
  case txByte d =>
    cases hx : t.txState with
    | txIdle => rw [Block.txByte_idle hx] at h; exact absurd h (by simp)
    | txOpen => rw [Block.txByte_open hx] at h; exact ⟨_, _, (Host.Outcome.next.inj h).symm⟩
  case txFrame D =>
    cases hx : t.txState with
    | txIdle => rw [Block.txFrame_idle hx] at h; exact ⟨_, _, (Host.Outcome.next.inj h).symm⟩
    | txOpen => rw [Block.txFrame_open hx] at h; exact absurd h (by simp)
  case txByteStartValued | txByteEndValued | txByteEscapeValued | txBytePlain => exact ⟨_, _, (inTxRow_next h).symm⟩

/-- Settles O59: by class, what an operation of the class writes. -/
theorem unitsDoNotTouchEachOther : Obligations.UnitsDoNotTouchEachOther := by
  intro i s s' t u h ht hu
  have effect : Block.meaning i t = .next u := by
    obtain ⟨t', u', ht', hm, rfl⟩ := exec_eq_next h
    obtain rfl : t = t' := Option.some.inj (ht.symm.trans ht')
    obtain rfl : u = u' := Option.some.inj (hu.symm.trans (State.withInst_same ht u'))
    exact hm
  refine ⟨fun hi => ?_, fun hi => meaning_deframerOnly hi effect, fun hi => ?_⟩
  · obtain ⟨c, v, rs, rfl⟩ := meaning_crcOnly hi effect
    exact ⟨⟨rfl, rfl, rfl, rfl⟩, rfl, rfl⟩
  · obtain ⟨x, out, rfl⟩ := meaning_framerOnly hi effect
    exact ⟨⟨rfl, rfl⟩, rfl, rfl, rfl, rfl⟩

end Sys2Proof.Proofs
end
